-- ==== Sys2Proof/Word.lean ====
section
/-! DEFINITION. The words and index types of the Zhabel 1610: bus words, bytes, handles, and the numbers that name
slots, agents, tracker entries, retire slots and exclusion ranges. -/

namespace Sys2Proof

/-- A byte of a data payload or of the service port. -/
abbrev Byte := BitVec 8

/-- A 32-bit word of the host port (chapter 12). -/
abbrev Word := BitVec 32

/-- A 16-bit grant handle (R180). -/
abbrev Handle := BitVec 16

/-- A grant slot index, 0–1023 (R1). -/
abbrev SlotIx := Fin 1024

/-- An agent number, which is also a lane number, 0–15. -/
abbrev AgentIx := Fin 16

/-- A tracker entry number, which is also the memory port tag, 0–63 (R42). -/
abbrev EntryIx := Fin 64

/-- A retire slot number, 0–7 (R100). -/
abbrev RetireIx := Fin 8

/-- An exclusion range number, 0–3 (R146). -/
abbrev RangeIx := Fin 4

/-- A tick period code, 0–3 (R119). -/
abbrev PeriodCode := Fin 4

end Sys2Proof
end

