-- ==== Sys2Proof/Syntax.lean ====
section
/-! DEFINITION. The commands of the block: one constructor for each row of spec/opcode_table.json, with the operands
the rule of that row gives it. A command is one happening, offered to the block from outside it. -/

namespace Sys2Proof

/-- The kind field of an access request: READ, WRITE, or one of the two invalid codes 2 and 3 (R23, R179). -/
inductive AccessKind where
  | read
  | write
  | invalid2
  | invalid3
  deriving DecidableEq, Repr

/-- An access request as an agent presents it on its lane (R23). -/
structure Request where
  tag    : BitVec 4
  handle : Handle
  offset : BitVec 32
  length : BitVec 13
  kind   : AccessKind
  data   : List Byte
  deriving DecidableEq, Repr

/-- The status of a memory completion (R46). -/
inductive MemStatus where
  | ok
  | error
  deriving DecidableEq, Repr

/-- The commands, in the table's order. Takes of the command processor (`create` to `unknownKindCode`) carry no
operand of their own: the record they execute is the head of the command queue (R68). Rows that are a write to one
host register carry the word written; rows that are the byte completing a service frame carry that byte where the
row's opcode does not fix it. -/
inductive Instr where
  | powerOnReset
  | hardwareReset
  | softReset
  | requestPresented (lane : AgentIx) (request : Request)
  | accessTake
  | memoryCompletion (tag : EntryIx) (status : MemStatus) (data : List Byte)
  | freeing (slot : SlotIx)
  | retireCompletion (op : RetireIx)
  | barrierCompletion
  | leaseTick
  | lapse (slot : SlotIx)
  | owedNoticePosted
  | drainTimeout (op : RetireIx)
  | push (value : Word)
  | pop (value : Word)
  | resume
  | discard
  | pushRefusedClear
  | discardRemoval
  | errorClear (value : Word)
  | faultAck (value : Word)
  | faultSelect (value : Word)
  | intEnable (value : Word)
  | registerWrite (reg : BitVec 5) (value : Word)
  | create
  | derive
  | modify
  | query
  | revoke
  | revokeAgent
  | purge
  | barrier
  | agentSet
  | quarantine
  | release
  | excludeSet
  | freeze
  | configure
  | unknownKindCode
  | statusRead
  | errorRead
  | agentRead (agent : Byte)
  | grantRead (indexLow : Byte)
  | hold (agent : Byte)
  | unhold (agent : Byte)
  | badFrame (opcode : Byte)
  | resetRelease
  | csAsserted
  | csDeasserted
  | fullByteReceived (byte : Byte)
  deriving DecidableEq, Repr

end Sys2Proof
end

