-- ==== Sys2Proof/Decode.lean ====
section
/-! DEFINITION. The words that spell commands. The block has no instruction decoder, and no row of
spec/opcode_table.json gives bits, so no word spells a command. -/

namespace Sys2Proof

/-- The command that the low `nbits` bits of `w` spell by the table: none, because no row of the table gives bits. -/
def decodeTableWord (_nbits _w : Nat) : Option Instr := none

end Sys2Proof
end

