-- ==== Sys2Proof/Machine/State.lean ====
section
/-! DEFINITION. The state of the Zhabel 1610: every field the spec gives a block of the controller, the input pins the
rules read, what the ports sent during the last command, and the queue of waiting commands. -/

namespace Sys2Proof.Machine

/-! ## The grant table (chapter 1) -/

/-- The four states of a grant slot (R5). -/
inductive GrantState where
  | free
  | live
  | suspended
  | draining
  deriving DecidableEq, Repr

/-- A subset of READ, WRITE, DELEGABLE (R1). -/
structure Rights where
  read      : Bool
  write     : Bool
  delegable : Bool
  deriving DecidableEq, Repr

/-- A lapse notice, with the values it was formed with (R124). -/
structure Notice where
  handle  : Handle
  label   : BitVec 16
  grantee : AgentIx
  moved   : Nat
  deriving DecidableEq, Repr

/-- One slot's record (R1, R2). `codeMatches` says whether the check code stored with the five checked fields agrees
with them: the one thing any rule reads of the code (log entry 2). `noticeOwed` is the notice owed flag with the
notice held with it (R125): set is `some`. -/
structure Grant where
  state       : GrantState
  generation  : BitVec 6
  grantee     : AgentIx
  base        : BitVec 32
  length      : Nat
  rights      : Rights
  ownerLabel  : BitVec 16
  codeMatches : Bool
  parent      : Option SlotIx
  depth       : Nat
  children    : List SlotIx
  lease       : Option Nat
  damaged     : Bool
  noticeOwed  : Option Notice
  deriving DecidableEq, Repr

/-- The grant table, in one canonical form: slots strictly rising, and no entry equal to what an unlisted slot reads
as (a FREE slot at generation 0, its power-on record). -/
abbrev GrantTable := List (SlotIx × Grant)

/-! ## The tracker and the ports (chapters 2, 3) -/

/-- The three states of a tracker entry (R42). -/
inductive EntryState where
  | empty
  | issued
  | abandoned
  deriving DecidableEq, Repr

/-- READ or WRITE: the kind of an admitted access (R42). -/
inductive Direction where
  | read
  | write
  deriving DecidableEq, Repr

/-- One tracker entry (R42). -/
structure Entry where
  state   : EntryState
  agent   : AgentIx
  tag     : BitVec 4
  grant   : SlotIx
  kind    : Direction
  address : BitVec 40
  length  : Nat
  deriving DecidableEq, Repr

/-- The values of an EMPTY entry (R42). -/
def Entry.emptied : Entry :=
  { state := .empty, agent := 0, tag := 0, grant := 0, kind := .read, address := 0, length := 0 }

/-- The fault kinds (R29, R141, R179). -/
inductive FaultKind where
  | malformedRequest
  | duplicateTag
  | stale
  | damaged
  | revoked
  | suspended
  | notGrantee
  | rights
  | bounds
  | memory
  | stopped
  | agentBlocked
  deriving DecidableEq, Repr

/-- The outcome of a lane response (R24). Read data is present for an OK read. -/
inductive LaneOutcome where
  | ok (readData : Option (List Byte))
  | fault (kind : FaultKind)
  | memoryError
  | abandoned
  | reset
  deriving DecidableEq, Repr

/-- A response on the response direction of a lane (R24). -/
structure LaneResponse where
  lane    : AgentIx
  tag     : BitVec 4
  outcome : LaneOutcome
  deriving DecidableEq, Repr

/-- A request on the memory port (R45). Write data is present for a WRITE. -/
structure MemRequest where
  tag       : EntryIx
  kind      : Direction
  address   : BitVec 40
  length    : Nat
  writeData : Option (List Byte)
  deriving DecidableEq, Repr

/-- What the block sent during the last command: lane responses and memory requests, and the byte shifted out on MISO
during a full byte of the service port. Each is delivered in the happening that sends it (R24, R45), so nothing of it
outlives the next command. The responses on one lane stand in the order sent; the order between lanes is the model's
choice (log entry 22). -/
structure Outputs where
  responses : List LaneResponse
  requests  : List MemRequest
  miso      : Option Byte
  deriving DecidableEq, Repr

/-! ## Queues and the command processor (chapter 4) -/

/-- Six command words: a command record, or the staging words (R58, R181). -/
structure CommandRecord where
  c0 : Word
  c1 : Word
  c2 : Word
  c3 : Word
  c4 : Word
  c5 : Word
  deriving DecidableEq, Repr

/-- The status codes of a completion (R182). -/
inductive Status where
  | ok
  | drainedAbandoned
  | noFreeSlot
  | quota
  | excluded
  | badRange
  | notLive
  | hasDescendants
  | depth
  | notDelegable
  | notSubset
  | damaged
  | conflict
  | discarded
  | isProtected
  | malformed
  deriving DecidableEq, Repr

/-- The grant record a QUERY returns (R99). -/
structure QueryResult where
  state      : GrantState
  grantee    : AgentIx
  base       : BitVec 32
  length     : Nat
  rights     : Rights
  ownerLabel : BitVec 16
  parent     : Option Handle
  depth      : Nat
  childCount : Nat
  lease      : Option Nat
  inFlight   : Nat
  damaged    : Bool
  noticeOwed : Bool
  deriving DecidableEq, Repr

/-- The result field of a completion (R61). -/
inductive Result where
  | absent
  | queried (record : QueryResult)
  | conflicting (handle : Handle)
  deriving DecidableEq, Repr

/-- A COMPLETION record (R61). -/
structure Completion where
  tag    : Byte
  status : Status
  kind   : Byte
  handle : Option Handle
  result : Result
  deriving DecidableEq, Repr

/-- A response record (R61). -/
inductive ResponseRecord where
  | completion (record : Completion)
  | notice (record : Notice)
  deriving DecidableEq, Repr

/-- The states of the command processor (R66). -/
inductive ProcState where
  | idle
  | waitingSpace
  | waitingRetire
  | barrierWait
  | purging
  | halted
  | discarding
  | stopped
  deriving DecidableEq, Repr

/-- The command processor's state, discard count and barrier tag (R66). -/
structure Processor where
  state        : ProcState
  discardCount : Nat
  barrierTag   : Option Byte
  deriving DecidableEq, Repr

/-! ## The retire set and the lease clock (chapters 6, 7) -/

/-- The kinds of a retire operation (R100). -/
inductive RetireKind where
  | revoke
  | revokeAgent
  | purge
  deriving DecidableEq, Repr

/-- The retire operation of an OPEN retire slot (R100). A FREE retire slot holds none. -/
structure RetireOp where
  kind           : RetireKind
  tag            : Byte
  target         : Option Handle
  members        : List SlotIx
  drainRemaining : Option Nat
  abandoned      : Bool
  deriving DecidableEq, Repr

/-- The lease clock (R119). `progress` counts toward the next tick in units of REFCLK; no row of the table advances it
(log entry 8). -/
structure LeaseClock where
  current  : PeriodCode
  pending  : Option PeriodCode
  progress : Nat
  deriving DecidableEq, Repr

/-! ## Agents and fault slots (chapter 8) -/

/-- The agent states (R131). -/
inductive AgentState where
  | disabled
  | active
  | quarantined
  deriving DecidableEq, Repr

/-- The five stored fields of an agent record (R131). -/
structure Agent where
  state          : AgentState
  hold           : Bool
  quota          : Nat
  limit          : Nat
  autoQuarantine : Bool
  deriving DecidableEq, Repr

/-- The fields of a HELD fault slot (R141). An EMPTY slot is `none`. -/
structure HeldFault where
  kind       : FaultKind
  handle     : Handle
  offset     : BitVec 32
  length     : Nat
  accessKind : AccessKind
  tag        : BitVec 4
  more       : Bool
  deriving DecidableEq, Repr

/-! ## Exclusion ranges, configuration, errors (chapters 9, 10) -/

/-- One exclusion range (R146). -/
structure ExclusionRange where
  enabled : Bool
  base    : BitVec 32
  length  : Nat
  deriving DecidableEq, Repr

/-- The severity of an error class (R158). -/
inductive Severity where
  | fatal
  | nonfatal
  deriving DecidableEq, Repr

/-- The device configuration but for the period code, which the lease clock holds (R153). -/
structure DeviceConfig where
  drainTimeout : Nat
  integrity    : Severity
  stray        : Severity
  abandon      : Severity
  deriving DecidableEq, Repr

/-- The error classes (R157). -/
inductive ErrorClass where
  | integrity
  | stray
  | abandon
  deriving DecidableEq, Repr

/-- The first error: a class with its detail (R159). -/
structure FirstError where
  errorClass : ErrorClass
  detail     : Nat
  deriving DecidableEq, Repr

/-- The error record (R159). -/
structure ErrorRecord where
  integrity : Bool
  stray     : Bool
  abandon   : Bool
  first     : Option FirstError
  further   : Bool
  deriving DecidableEq, Repr

/-- The run state (R162). -/
inductive RunState where
  | running
  | stopped
  deriving DecidableEq, Repr

/-! ## The service port (chapter 11) -/

/-- The frame states (R168). -/
inductive FrameState where
  | idle
  | command
  | answer
  | ignoring
  deriving DecidableEq, Repr

/-- The service port: the frame state, the bytes received in the frame (the opcode first; their number is the count of
bytes received), the answer, and how many answer bytes have been sent (R168). -/
structure ServicePort where
  frame    : FrameState
  received : List Byte
  answer   : List Byte
  sent     : Nat
  deriving DecidableEq, Repr

/-! ## The state -/

/-- The state of the controller. -/
structure State where
  /-- RST# is asserted, or power-up is in progress. -/
  inReset       : Bool
  /-- The grant slots, the generation store included (R1, R12). -/
  grants        : GrantTable
  /-- The free list, head first (R13). -/
  freeList      : List SlotIx
  /-- The request directions of the lanes: EMPTY is `none`, WAITING is `some` (R22). -/
  lanes         : Vector (Option Request) 16
  /-- The lane most recently taken (R28). -/
  lanePointer   : AgentIx
  /-- The tracker (R42). -/
  tracker       : Vector Entry 64
  /-- The command queue, oldest first (R59). -/
  commandQueue  : List CommandRecord
  /-- The staging words CMD_STAGE0–5 (R58). -/
  staging       : CommandRecord
  /-- The PUSH_REFUSED flag (R60). -/
  pushRefused   : Bool
  /-- The response queue, oldest first (R61). -/
  responseQueue : List ResponseRecord
  /-- The reservation count (R62). -/
  reserved      : Nat
  /-- The command processor (R66). -/
  processor     : Processor
  /-- The retire slots: FREE is `none`, OPEN is `some` (R100). -/
  retire        : Vector (Option RetireOp) 8
  /-- The lease clock (R119). -/
  clock         : LeaseClock
  /-- The agent table (R131). -/
  agents        : Vector Agent 16
  /-- The fault slots (R141). -/
  faultSlots    : Vector (Option HeldFault) 16
  /-- The agent selected by FAULT_SELECT (R178). -/
  faultSelect   : AgentIx
  /-- The exclusion ranges (R146). -/
  ranges        : Vector ExclusionRange 4
  /-- The freeze level (R150). -/
  freezeLevel   : Fin 3
  /-- The drain timeout and the severities (R153). -/
  config        : DeviceConfig
  /-- The error record (R159). -/
  errors        : ErrorRecord
  /-- The run state (R162). -/
  runState      : RunState
  /-- The word held by INT_ENABLE (R165, R177). -/
  intEnable     : Word
  /-- The service port (R168). -/
  service       : ServicePort
  /-- The CS# input pin is asserted. -/
  csAsserted    : Bool
  /-- What the ports sent during the last command. -/
  out           : Outputs
  /-- The model's own: how many free values have been drawn (log entry 5). -/
  freeDraws     : Nat
  /-- The model's own: the commands waiting, first in, first out. -/
  pending       : List Instr
  deriving DecidableEq, Repr

/-- Why the machine stops with a fault. No rule of the spec stops the block: a command it turns away, and an error it
records, are effects on the state. So no constructor stands here, and no meaning faults. -/
inductive Fault where
  deriving DecidableEq, Repr

/-- Why a command has no meaning. -/
inductive Refusal where
  /-- Raised by an arm of `exec` whose command has no meaning in the model yet, with the command's mnemonic. Safe: the
  run stops. No arm raises it. -/
  | notModelled (mnemonic : String)
  deriving DecidableEq, Repr

/-- The last `k` numbers below `n`, in ascending order. -/
def lastBelow (n : Nat) : (k : Nat) → k ≤ n → List (Fin n)
  | 0, _ => []
  | k + 1, h => ⟨n - (k + 1), by omega⟩ :: lastBelow n k (by omega)

/-- All the numbers below `n`, in ascending order. -/
def allBelow (n : Nat) : List (Fin n) := lastBelow n n (Nat.le_refl n)

/-- The machine after a power-on reset and its release with CS# deasserted: R20, R40, R57, R78, R118, R130, R145, R156,
R167, R176, R177. Every grant slot is FREE at generation 0, so the table lists none. -/
def State.reset : State where
  inReset := false
  grants := []
  freeList := allBelow 1024
  lanes := Vector.replicate 16 none
  lanePointer := 15
  tracker := Vector.replicate 64 Entry.emptied
  commandQueue := []
  staging := { c0 := 0, c1 := 0, c2 := 0, c3 := 0, c4 := 0, c5 := 0 }
  pushRefused := false
  responseQueue := []
  reserved := 0
  processor := { state := .idle, discardCount := 0, barrierTag := none }
  retire := Vector.replicate 8 none
  clock := { current := 2, pending := none, progress := 0 }
  agents := Vector.replicate 16 { state := .disabled, hold := false, quota := 1024, limit := 4, autoQuarantine := false }
  faultSlots := Vector.replicate 16 none
  faultSelect := 0
  ranges := Vector.replicate 4 { enabled := false, base := 0, length := 0 }
  freezeLevel := 0
  config := { drainTimeout := 1000, integrity := .fatal, stray := .nonfatal, abandon := .nonfatal }
  errors := { integrity := false, stray := false, abandon := false, first := none, further := false }
  runState := .running
  intEnable := 0
  service := { frame := .idle, received := [], answer := [], sent := 0 }
  csAsserted := false
  out := { responses := [], requests := [], miso := none }
  freeDraws := 0
  pending := []

end Sys2Proof.Machine
end

