-- ==== Sys2Proof/Machine/Operands.lean ====
section
/-! DEFINITION. The operand forms: handles, the fields of a command record, the codes of chapter 12, and the packing of
fields into words and bytes. -/

namespace Sys2Proof.Machine

/-! ## Handles (R180) -/

/-- The slot index of a handle: bits [9:0]. -/
def handleSlot (h : Handle) : SlotIx := Fin.ofNat 1024 h.toNat

/-- The generation of a handle: bits [15:10]. -/
def handleGeneration (h : Handle) : BitVec 6 := h.extractLsb' 10 6

/-- The handle index/generation: generation × 1024 + index. -/
def mkHandle (i : SlotIx) (g : BitVec 6) : Handle := BitVec.ofNat 16 (g.toNat * 1024 + i.val)

/-! ## Rights -/

/-- The empty set of rights. -/
def Rights.none : Rights := { read := false, write := false, delegable := false }

/-- Rights from three bits: READ, WRITE, DELEGABLE from the least significant up (R181, R183). -/
def rightsOfBits (b : BitVec 3) : Rights :=
  { read := b.getLsbD 0, write := b.getLsbD 1, delegable := b.getLsbD 2 }

/-- The three bits of a set of rights. -/
def rightsBits (r : Rights) : Nat := r.read.toNat + 2 * r.write.toNat + 4 * r.delegable.toNat

/-- Every right of the first set is in the second. -/
def Rights.subset (a b : Rights) : Bool := (!a.read || b.read) && (!a.write || b.write) && (!a.delegable || b.delegable)

/-! ## The command record (R181) -/

/-- The commands that kind codes name (R181). -/
inductive CommandKind where
  | create
  | derive
  | modify
  | query
  | revoke
  | revokeAgent
  | purge
  | barrier
  | agentSet
  | quarantine
  | release
  | excludeSet
  | freeze
  | configure
  deriving DecidableEq, Repr

/-- The kind a code names (R181). -/
def kindOfCode (c : Byte) : Option CommandKind :=
  match c.toNat with
  | 0x01 => some .create
  | 0x02 => some .derive
  | 0x03 => some .modify
  | 0x04 => some .query
  | 0x05 => some .revoke
  | 0x06 => some .revokeAgent
  | 0x07 => some .purge
  | 0x08 => some .barrier
  | 0x09 => some .agentSet
  | 0x0A => some .quarantine
  | 0x0B => some .release
  | 0x0C => some .excludeSet
  | 0x0D => some .freeze
  | 0x0E => some .configure
  | _ => none

/-- The kind code of a record: C0 [7:0]. -/
def CommandRecord.kindCode (r : CommandRecord) : Byte := r.c0.extractLsb' 0 8

/-- The command a record names, if any. -/
def CommandRecord.kind (r : CommandRecord) : Option CommandKind := kindOfCode r.kindCode

/-- The tag: C0 [15:8]. -/
def CommandRecord.tag (r : CommandRecord) : Byte := r.c0.extractLsb' 8 8

/-- The agent: C0 [19:16]. -/
def CommandRecord.agent (r : CommandRecord) : AgentIx := (r.c0.extractLsb' 16 4).toFin

/-- The rights: C0 [22:20]. -/
def CommandRecord.rights (r : CommandRecord) : Rights := rightsOfBits (r.c0.extractLsb' 20 3)

/-- The reserved position: C0 [23]. -/
def CommandRecord.reservedBit (r : CommandRecord) : Bool := r.c0.getLsbD 23

/-- The option flags of MODIFY: C0 [31:24]. -/
def CommandRecord.flags (r : CommandRecord) : Byte := r.c0.extractLsb' 24 8

/-- The handle: C1 [15:0]. -/
def CommandRecord.handle (r : CommandRecord) : Handle := r.c1.extractLsb' 0 16

/-- The owner label: C1 [31:16]. -/
def CommandRecord.label (r : CommandRecord) : BitVec 16 := r.c1.extractLsb' 16 16

/-- The base, or the offset of a DERIVE, in granules: C2. -/
def CommandRecord.base (r : CommandRecord) : BitVec 32 := r.c2

/-- The length in granules: C3. -/
def CommandRecord.length (r : CommandRecord) : Nat := r.c3.toNat

/-- The lease in ticks: C4, whose bits [31:20] make a lease above 1,048,575 when they are not 0. -/
def CommandRecord.lease (r : CommandRecord) : Nat := r.c4.toNat

/-- The kind-specific word: C5. -/
def CommandRecord.specific (r : CommandRecord) : Word := r.c5

/-- The lease field a command's lease gives: absent for 0 (R14, R95). -/
def leaseOf (ticks : Nat) : Option Nat := if ticks = 0 then none else some ticks

/-- The fields of a command record that R69 assigns to kinds. -/
inductive Field where
  | agent
  | rights
  | flags
  | handle
  | label
  | base
  | length
  | lease
  | specific
  deriving DecidableEq, Repr

/-- All the fields. -/
def Field.all : List Field := [.agent, .rights, .flags, .handle, .label, .base, .length, .lease, .specific]

/-- The fields each kind uses besides the tag: the table of R69. -/
def fieldsUsed : CommandKind → List Field
  | .create => [.agent, .rights, .label, .base, .length, .lease]
  | .derive => [.handle, .agent, .rights, .label, .base, .length, .lease]
  | .modify => [.handle, .flags, .rights, .length, .lease, .label]
  | .query => [.handle]
  | .revoke => [.handle]
  | .revokeAgent => [.agent]
  | .quarantine => [.agent]
  | .release => [.agent]
  | .purge => []
  | .barrier => []
  | .agentSet => [.agent, .specific]
  | .excludeSet => [.base, .length, .specific]
  | .freeze => [.specific]
  | .configure => [.specific]

/-- A field holds 0 in all its bits. -/
def CommandRecord.fieldZero (r : CommandRecord) : Field → Bool
  | .agent => r.c0.extractLsb' 16 4 == 0
  | .rights => r.c0.extractLsb' 20 3 == 0
  | .flags => r.flags == 0
  | .handle => r.handle == 0
  | .label => r.label == 0
  | .base => r.c2 == 0
  | .length => r.c3 == 0
  | .lease => r.c4 == 0
  | .specific => r.c5 == 0

/-- The general checks of R69 find the record malformed: the kind code names no command, the reserved position is not
0, or a field the kind does not use is not 0. -/
def CommandRecord.generallyMalformed (r : CommandRecord) : Bool :=
  match r.kind with
  | none => true
  | some k => r.reservedBit || Field.all.any (fun f => !(fieldsUsed k).contains f && !r.fieldZero f)

/-- The largest window length, 2^24 granules (R3). -/
def maxLength : Nat := 16777216

/-- The longest lease, 1,048,575 ticks (R82). -/
def maxLease : Nat := 1048575

/-- The number of granules of the physical space, 2^32. -/
def granules : Nat := 4294967296

/-- A length outside 1 to 2^24 (R82, R90, R148). -/
def badLength (n : Nat) : Bool := n == 0 || decide (maxLength < n)

/-- CREATE and DERIVE find an operand outside R82. -/
def CommandRecord.grantOperandsBad (r : CommandRecord) : Bool :=
  r.rights == Rights.none || badLength r.length || decide (maxLease < r.lease)

/-! ### The options of MODIFY (R90) -/

/-- SET_RIGHTS is selected. -/
def CommandRecord.setRights (r : CommandRecord) : Bool := r.flags.getLsbD 0
/-- SET_LENGTH is selected. -/
def CommandRecord.setLength (r : CommandRecord) : Bool := r.flags.getLsbD 1
/-- SET_LEASE is selected. -/
def CommandRecord.setLease (r : CommandRecord) : Bool := r.flags.getLsbD 2
/-- SET_LABEL is selected. -/
def CommandRecord.setLabel (r : CommandRecord) : Bool := r.flags.getLsbD 3
/-- SUSPEND is selected. -/
def CommandRecord.setSuspend (r : CommandRecord) : Bool := r.flags.getLsbD 4
/-- RESUME is selected. -/
def CommandRecord.setResume (r : CommandRecord) : Bool := r.flags.getLsbD 5

/-- SUSPEND is the one option selected. -/
def CommandRecord.suspendOnly (r : CommandRecord) : Bool := r.flags == 0x10

/-- MODIFY finds R90 not met: no option or a nameless flag, a value out of range, SUSPEND with RESUME, or a value
field whose option is not selected that is not 0. -/
def CommandRecord.modifyBad (r : CommandRecord) : Bool :=
  r.flags == 0 || r.flags.getLsbD 6 || r.flags.getLsbD 7
    || (r.setSuspend && r.setResume)
    || (if r.setRights then r.rights == Rights.none else !r.fieldZero .rights)
    || (if r.setLength then badLength r.length else !r.fieldZero .length)
    || (if r.setLease then decide (maxLease < r.lease) else !r.fieldZero .lease)
    || (!r.setLabel && !r.fieldZero .label)

/-! ### The kind-specific word (R181) -/

/-- AGENT_SET: the state code, C5 [1:0]. -/
def CommandRecord.agentStateCode (r : CommandRecord) : Nat := (r.c5.extractLsb' 0 2).toNat
/-- AGENT_SET: the quota, C5 [12:2]. -/
def CommandRecord.agentQuota (r : CommandRecord) : Nat := (r.c5.extractLsb' 2 11).toNat
/-- AGENT_SET: the outstanding limit, C5 [16:13]. -/
def CommandRecord.agentLimit (r : CommandRecord) : Nat := (r.c5.extractLsb' 13 4).toNat
/-- AGENT_SET: auto-quarantine, C5 [17]. -/
def CommandRecord.agentAuto (r : CommandRecord) : Bool := r.c5.getLsbD 17

/-- AGENT_SET finds a value outside R136's table or an unnamed bit of C5 that is not 0. -/
def CommandRecord.agentSetBad (r : CommandRecord) : Bool :=
  decide (2 ≤ r.agentStateCode) || decide (1024 < r.agentQuota) || r.agentLimit == 0 || decide (8 < r.agentLimit)
    || r.c5.extractLsb' 18 14 != 0

/-- EXCLUDE_SET: the range index code, C5 [2:0]. -/
def CommandRecord.rangeCode (r : CommandRecord) : Nat := (r.c5.extractLsb' 0 3).toNat
/-- EXCLUDE_SET: the range named, when the code is in range. -/
def CommandRecord.range (r : CommandRecord) : RangeIx := (r.c5.extractLsb' 0 2).toFin
/-- EXCLUDE_SET: the enable flag, C5 [8]. -/
def CommandRecord.enable (r : CommandRecord) : Bool := r.c5.getLsbD 8

/-- EXCLUDE_SET's first check fails (R148). -/
def CommandRecord.excludeSetBad (r : CommandRecord) : Bool :=
  decide (3 < r.rangeCode) || r.c5.extractLsb' 3 5 != 0 || r.c5.extractLsb' 9 23 != 0
    || (if r.enable then badLength r.length else r.c2 != 0 || r.c3 != 0)

/-- FREEZE: the level, C5 [1:0]. -/
def CommandRecord.level (r : CommandRecord) : Nat := (r.c5.extractLsb' 0 2).toNat

/-- FREEZE's first check fails (R151). -/
def CommandRecord.freezeBad (r : CommandRecord) : Bool := decide (2 < r.level) || r.c5.extractLsb' 2 30 != 0

/-- CONFIGURE: the tick period code, C5 [2:0]. -/
def CommandRecord.periodBits (r : CommandRecord) : Nat := (r.c5.extractLsb' 0 3).toNat
/-- CONFIGURE: the period code, when it is in range. -/
def CommandRecord.period (r : CommandRecord) : PeriodCode := (r.c5.extractLsb' 0 2).toFin
/-- CONFIGURE: the drain timeout, C5 [31:16]. -/
def CommandRecord.timeout (r : CommandRecord) : Nat := (r.c5.extractLsb' 16 16).toNat
/-- CONFIGURE: a severity bit, 1 FATAL and 0 NONFATAL. -/
def severityOfBit (b : Bool) : Severity := if b then .fatal else .nonfatal

/-- CONFIGURE's first check fails (R154). -/
def CommandRecord.configureBad (r : CommandRecord) : Bool := decide (3 < r.periodBits) || r.c5.extractLsb' 6 10 != 0

/-! ## Codes (R179, R181, R182) -/

/-- The kind code of BARRIER (R181). -/
def barrierCode : Byte := 0x08

/-- The kind code of the command that opened a retire operation (R181). -/
def retireKindCode : RetireKind → Byte
  | .revoke => 0x05
  | .revokeAgent => 0x06
  | .purge => 0x07

/-- Status codes (R182). -/
def statusCode : Status → Nat
  | .ok => 0x00
  | .drainedAbandoned => 0x01
  | .noFreeSlot => 0x10
  | .quota => 0x11
  | .excluded => 0x12
  | .badRange => 0x13
  | .notLive => 0x14
  | .hasDescendants => 0x15
  | .depth => 0x16
  | .notDelegable => 0x17
  | .notSubset => 0x18
  | .damaged => 0x19
  | .conflict => 0x1A
  | .discarded => 0x1B
  | .isProtected => 0x20
  | .malformed => 0x21

/-- The two statuses that halt the processor (R70). -/
def Status.halts : Status → Bool
  | .malformed => true
  | .isProtected => true
  | .ok | .drainedAbandoned | .noFreeSlot | .quota | .excluded | .badRange | .notLive | .hasDescendants | .depth
  | .notDelegable | .notSubset | .damaged | .conflict | .discarded => false

/-- Fault kind codes (R179). -/
def faultCode : FaultKind → Nat
  | .malformedRequest => 1
  | .duplicateTag => 2
  | .stale => 3
  | .damaged => 4
  | .revoked => 5
  | .suspended => 6
  | .notGrantee => 7
  | .rights => 8
  | .bounds => 9
  | .memory => 10
  | .stopped => 11
  | .agentBlocked => 12

/-- Access kind codes (R179). -/
def accessCode : AccessKind → Nat
  | .read => 0
  | .write => 1
  | .invalid2 => 2
  | .invalid3 => 3

/-- Processor state codes (R179). -/
def procCode : ProcState → Nat
  | .idle => 0
  | .waitingSpace => 1
  | .waitingRetire => 2
  | .barrierWait => 3
  | .purging => 4
  | .halted => 5
  | .discarding => 6
  | .stopped => 7

/-- Agent state codes (R179). -/
def agentCode : AgentState → Nat
  | .disabled => 0
  | .active => 1
  | .quarantined => 2

/-- Grant state codes (R182, R183). -/
def grantCode : GrantState → Nat
  | .free => 0
  | .live => 1
  | .suspended => 2
  | .draining => 3

/-- Run state codes (R179). -/
def runCode : RunState → Nat
  | .running => 0
  | .stopped => 1

/-- Error class codes; 0 stands for an empty first error (R179). -/
def errorCode : ErrorClass → Nat
  | .integrity => 1
  | .stray => 2
  | .abandon => 3

/-- The access kind of an entry (R48). -/
def accessKindOf : Direction → AccessKind
  | .read => .read
  | .write => .write

/-- The direction of a request whose kind is valid; the two invalid codes pass no check 3, so their image is not
used. -/
def directionOf : AccessKind → Direction
  | .write => .write
  | .read | .invalid2 | .invalid3 => .read

/-! ## Packing -/

/-- A value placed at a bit position in a field of the given width. -/
structure Placed where
  position : Nat
  width    : Nat
  value    : Nat
  deriving DecidableEq, Repr

/-- The number whose fields hold the placed values; every other bit is 0. -/
def packNat : List Placed → Nat
  | [] => 0
  | p :: rest => (p.value % 2 ^ p.width) * 2 ^ p.position + packNat rest

/-- A register word with the placed values (R179). -/
def packWord (ps : List Placed) : Word := BitVec.ofNat 32 (packNat ps)

/-- A service port byte with the placed values (R183). Bits that R183 does not list are sent as 0, which is the model's
choice (log entry 24). -/
def packByte (ps : List Placed) : Byte := BitVec.ofNat 8 (packNat ps)

/-- The `n` low bytes of a value, most significant first (chapter 12). -/
def beBytes : Nat → Nat → List Byte
  | 0, _ => []
  | n + 1, v => BitVec.ofNat 8 (v / 256 ^ n) :: beBytes n v

end Sys2Proof.Machine
end

