-- ==== Sys2Proof/Machine/Flags.lean ====
section
/-! DEFINITION. The flags: the error record, the run state and the interrupt line (chapter 10). -/

namespace Sys2Proof.Machine

/-! ## Recording an error -/

/-- The severity of a class (R158). -/
def DeviceConfig.severity (c : DeviceConfig) : ErrorClass → Severity
  | .integrity => c.integrity
  | .stray => c.stray
  | .abandon => c.abandon

/-- The class flag of a class (R159). -/
def ErrorRecord.flag (r : ErrorRecord) : ErrorClass → Bool
  | .integrity => r.integrity
  | .stray => r.stray
  | .abandon => r.abandon

/-- The record after one more error: its class flag set, first error filled if it was empty, further set if it was not
(R159). -/
def ErrorRecord.add (r : ErrorRecord) (c : ErrorClass) (detail : Nat) : ErrorRecord where
  integrity := r.integrity || decide (c = .integrity)
  stray := r.stray || decide (c = .stray)
  abandon := r.abandon || decide (c = .abandon)
  first := match r.first with
    | some e => some e
    | none => some { errorClass := c, detail := detail }
  further := r.further || r.first.isSome

/-- The empty error record (R161, R167). -/
def ErrorRecord.cleared : ErrorRecord :=
  { integrity := false, stray := false, abandon := false, first := none, further := false }

/-- Records an error: the record takes it, and an error of a FATAL class stops the device (R159, R162). The processor
enters STOPPED at the end of the happening (`stopProcessor`). -/
def recordError (c : ErrorClass) (detail : Nat) (s : State) : State :=
  { s with
    errors := s.errors.add c detail
    runState := if s.config.severity c = .fatal then .stopped else s.runState }

/-! ## The interrupt line -/

/-- The six interrupt causes (R164). -/
inductive Cause where
  | response
  | fault
  | halt
  | error
  | stopped
  | pushRefused
  deriving DecidableEq, Repr

/-- The bit of a cause in INT_ENABLE and INT_CAUSE (R179). -/
def Cause.bit : Cause → Nat
  | .response => 0
  | .fault => 1
  | .halt => 2
  | .error => 3
  | .stopped => 4
  | .pushRefused => 5

/-- All causes. -/
def Cause.all : List Cause := [.response, .fault, .halt, .error, .stopped, .pushRefused]

/-- A cause is present (R164). -/
def causePresent (s : State) : Cause → Bool
  | .response => !s.responseQueue.isEmpty
  | .fault => s.faultSlots.toList.any Option.isSome
  | .halt => decide (s.processor.state = .halted)
  | .error => s.errors.integrity || s.errors.stray || s.errors.abandon
  | .stopped => decide (s.runState = .stopped)
  | .pushRefused => s.pushRefused

/-- A cause is enabled (R165). -/
def causeEnabled (s : State) (c : Cause) : Bool := s.intEnable.getLsbD c.bit

/-- INT# is asserted (low): some cause is present and enabled, and the block is not in reset (R165, R167). -/
def intAsserted (s : State) : Bool := !s.inReset && Cause.all.any (fun c => causePresent s c && causeEnabled s c)

end Sys2Proof.Machine
end

