-- ==== Sys2Proof/Machine/Ops.lean ====
section
/-! DEFINITION. The shared operations over the state: the grant table, the tracker, the lanes, the queues and the
command processor, freeing, retire completion, lapse notices, and the taking of a command. -/

namespace Sys2Proof.Machine

/-! ## A command as one happening -/

/-- The state with nothing sent yet. -/
def State.quiet (s : State) : State := { s with out := { responses := [], requests := [], miso := none } }

/-- One happening of a block out of reset. While RST# is asserted, and during power-up, the ports accept nothing and
nothing changes (R40, R57, R78, R130, R157, R176, R177). -/
def happening (f : State → State) (s : State) : Host.Outcome State Fault Refusal :=
  .next (if s.inReset then s.quiet else f s.quiet)

/-! ## The grant table -/

/-- The record of a FREE slot at a generation (R1). -/
def freeRecord (generation : BitVec 6) : Grant where
  state := .free
  generation := generation
  grantee := 0
  base := 0
  length := 0
  rights := Rights.none
  ownerLabel := 0
  codeMatches := true
  parent := none
  depth := 0
  children := []
  lease := none
  damaged := false
  noticeOwed := none

/-- The record of a slot. A slot that the table does not list is FREE at generation 0. -/
def grantAt : GrantTable → SlotIx → Grant
  | [], _ => freeRecord 0
  | (j, g) :: rest, i => if j = i then g else grantAt rest i

/-- Inserts a slot that is not listed, before the first larger index. -/
def insertSlot : GrantTable → SlotIx → Grant → GrantTable
  | [], i, g => [(i, g)]
  | (j, h) :: rest, i, g => if i < j then (i, g) :: (j, h) :: rest else (j, h) :: insertSlot rest i g

/-- Writes a slot's record, keeping the canonical form. -/
def putGrant (t : GrantTable) (i : SlotIx) (g : Grant) : GrantTable :=
  if g = freeRecord 0 then t.filter (fun p => p.1 != i) else insertSlot (t.filter (fun p => p.1 != i)) i g

/-- Writes every listed slot's record anew. -/
def mapGrants (f : SlotIx → Grant → Grant) (t : GrantTable) : GrantTable :=
  (t.map Prod.fst).foldr (fun i acc => putGrant acc i (f i (grantAt t i))) []

/-- The canonical form: slots strictly rising, and no entry that reads as an unlisted slot. -/
def GrantTable.wf : GrantTable → Bool
  | [] => true
  | (i, g) :: rest => g != freeRecord 0 && rest.all (fun p => decide (i < p.1)) && GrantTable.wf rest

/-- The record of a slot. -/
def State.grant (s : State) (i : SlotIx) : Grant := grantAt s.grants i

/-- Writes a slot's record. -/
def State.setGrant (s : State) (i : SlotIx) (g : Grant) : State := { s with grants := putGrant s.grants i g }

/-- Writes every slot's record anew, by a function that leaves a FREE slot at generation 0 as it is. -/
def State.updateGrants (s : State) (f : SlotIx → Grant → Grant) : State := { s with grants := mapGrants f s.grants }

/-- The listed slots, ascending. -/
def State.slots (s : State) : List SlotIx := s.grants.map Prod.fst

/-- LIVE or SUSPENDED. -/
def GrantState.inUse : GrantState → Bool
  | .live | .suspended => true
  | .free | .draining => false

/-- The non-FREE slots, ascending. -/
def State.nonFree (s : State) : List SlotIx := s.slots.filter (fun i => decide ((s.grant i).state ≠ .free))

/-- A handle resolves: its slot is not FREE and holds its generation (R11). -/
def State.resolves (s : State) (h : Handle) : Bool :=
  decide ((s.grant (handleSlot h)).state ≠ .free) && (s.grant (handleSlot h)).generation == handleGeneration h

/-- The ancestors of a slot, parent first, following `n` parents at most. -/
def ancestorsUpTo : Nat → GrantTable → SlotIx → List SlotIx
  | 0, _, _ => []
  | n + 1, t, i =>
    match (grantAt t i).parent with
    | none => []
    | some p => p :: ancestorsUpTo n t p

/-- The ancestors of a slot: at most three (R7). -/
def State.ancestors (s : State) (i : SlotIx) : List SlotIx := ancestorsUpTo 3 s.grants i

/-- A slot is the given one or a descendant of it. -/
def State.within (s : State) (top i : SlotIx) : Bool := i == top || (s.ancestors i).contains top

/-- Inserts an index into an ascending set of slot indices. -/
def insertIndex : List SlotIx → SlotIx → List SlotIx
  | [], i => [i]
  | j :: rest, i => if i < j then i :: j :: rest else if i = j then j :: rest else j :: insertIndex rest i

/-- The number of non-FREE grants that name an agent as grantee (R133). -/
def State.grantCount (s : State) (a : AgentIx) : Nat := s.nonFree.countP (fun i => (s.grant i).grantee == a)

/-- The window of a grant overlaps the granules [base, base + length) (R83, R146). -/
def windowsOverlap (b₁ n₁ b₂ n₂ : Nat) : Bool := decide (b₁ < b₂ + n₂) && decide (b₂ < b₁ + n₁)

/-- A read of a slot's checked fields: a mismatch with the check code on an undamaged slot sets the damaged flag and
records one INTEGRITY error (R18). -/
def integrityRead (i : SlotIx) (s : State) : State :=
  if (s.grant i).codeMatches || (s.grant i).damaged then s
  else recordError .integrity i.val (s.setGrant i { s.grant i with damaged := true })

/-- A read of the checked fields of every non-FREE slot, in ascending order (R18, R105, R149). -/
def integrityScan (s : State) : State := s.nonFree.foldl (fun s i => integrityRead i s) s

/-! ## The tracker -/

/-- The in-flight count of a slot (R4). -/
def State.inFlight (s : State) (i : SlotIx) : Nat :=
  s.tracker.toList.countP (fun e => decide (e.state = .issued) && e.grant == i)

/-- The outstanding count of an agent (R54). -/
def State.outstanding (s : State) (a : AgentIx) : Nat :=
  s.tracker.toList.countP (fun e => decide (e.state = .issued) && e.agent == a)

/-- A tracker level: the number of entries in a state (R54). -/
def State.level (s : State) (st : EntryState) : Nat := s.tracker.toList.countP (fun e => decide (e.state = st))

/-- The EMPTY entry with the lowest number (R44). -/
def State.firstEmpty (s : State) : Option EntryIx :=
  (allBelow 64).find? (fun k => decide (s.tracker[k].state = .empty))

/-- Writes a tracker entry. -/
def State.setEntry (s : State) (k : EntryIx) (e : Entry) : State := { s with tracker := s.tracker.set k e }

/-- An entry once abandoned: it keeps kind and length (R42). -/
def Entry.abandon (e : Entry) : Entry := { e with state := .abandoned, agent := 0, tag := 0, grant := 0, address := 0 }

/-- An ISSUED entry under one of the slots. -/
def Entry.issuedUnder (e : Entry) (members : List SlotIx) : Bool :=
  decide (e.state = .issued) && members.contains e.grant

/-- Sends a response on a lane (R24). -/
def State.respond (s : State) (r : LaneResponse) : State :=
  { s with out := { s.out with responses := s.out.responses ++ [r] } }

/-- Sends responses, in the order given: each lane's share of it goes out in that order (R24). The order between lanes is
the model's choice (log entry 22). -/
def State.respondAll (s : State) (rs : List LaneResponse) : State :=
  { s with out := { s.out with responses := s.out.responses ++ rs } }

/-- One answer for each entry that satisfies a condition, to its requester, in ascending entry order over all lanes: on
each lane the order of R24 and R52, and between lanes the model's choice (log entry 22). -/
def State.answersTo (s : State) (which : Entry → Bool) (answer : LaneOutcome) : List LaneResponse :=
  (s.tracker.toList.filter which).map (fun e => { lane := e.agent, tag := e.tag, outcome := answer })

/-- Makes the entries that satisfy a condition ABANDONED (R52). -/
def abandonEntries (which : Entry → Bool) (s : State) : State :=
  { s with tracker := s.tracker.map (fun e => if which e then e.abandon else e) }

/-! ## Agents and fault slots -/

/-- An agent is admitted (R132). -/
def State.admitted (s : State) (a : AgentIx) : Bool := decide (s.agents[a].state = .active) && !s.agents[a].hold

/-- Writes an agent record. -/
def State.setAgent (s : State) (a : AgentIx) (r : Agent) : State := { s with agents := s.agents.set a r }

/-- Writes a fault slot. -/
def State.setFaultSlot (s : State) (a : AgentIx) (f : Option HeldFault) : State :=
  { s with faultSlots := s.faultSlots.set a f }

/-- Auto-quarantine (R138). -/
def autoQuarantine (a : AgentIx) (s : State) : State :=
  if s.agents[a].autoQuarantine ∧ s.agents[a].state = .active then
    s.setAgent a { s.agents[a] with state := .quarantined }
  else s

/-- A fault slot after one more fault is offered to it (R142). -/
def offered (f : HeldFault) : Option HeldFault → Option HeldFault
  | none => some { f with more := false }
  | some held => some { held with more := true }

/-- Offers a fault to an agent's fault slot; auto-quarantine follows (R142, R138). -/
def offerFault (a : AgentIx) (f : HeldFault) (s : State) : State :=
  autoQuarantine a (s.setFaultSlot a (offered f s.faultSlots[a]))

/-! ## The response queue -/

/-- The number of unreserved places (R62). -/
def State.unreserved (s : State) : Nat := 32 - (s.responseQueue.length + s.reserved)

/-- Posts a record into an unreserved place. -/
def State.post (s : State) (r : ResponseRecord) : State := { s with responseQueue := s.responseQueue ++ [r] }

/-- Posts a completion into its reservation (R62). -/
def State.postReserved (s : State) (c : Completion) : State :=
  { s with responseQueue := s.responseQueue ++ [.completion c], reserved := s.reserved - 1 }

/-- Some grant's notice owed flag is set. -/
def State.owesNotice (s : State) : Bool := s.slots.any (fun i => (s.grant i).noticeOwed.isSome)

/-- The slot with the lowest index whose notice is owed. -/
def State.firstOwed (s : State) : Option SlotIx := s.slots.find? (fun i => (s.grant i).noticeOwed.isSome)

/-! ## The command processor -/

/-- Writes the processor state. -/
def State.setProc (s : State) (p : ProcState) : State := { s with processor := { s.processor with state := p } }

/-- The number of OPEN retire slots (R100). -/
def State.openCount (s : State) : Nat := s.retire.toList.countP Option.isSome

/-- A record's kind code is REVOKE, REVOKE_AGENT or PURGE (R67). -/
def CommandRecord.revoking (r : CommandRecord) : Bool :=
  match r.kind with
  | some .revoke | some .revokeAgent | some .purge => true
  | some .create | some .derive | some .modify | some .query | some .barrier | some .agentSet | some .quarantine
  | some .release | some .excludeSet | some .freeze | some .configure | none => false

/-- What the take test settles the state to: the conditions of R67 in their order. -/
def takeTestState (s : State) : ProcState :=
  match s.commandQueue with
  | [] => .idle
  | r :: _ =>
    if s.owesNotice ∨ s.unreserved = 0 then .waitingSpace
    else if r.revoking ∧ s.openCount = 8 then .waitingRetire
    else .idle

/-- The take test, made in IDLE, WAITING_SPACE and WAITING_RETIRE alone (R67). -/
def takeTest (s : State) : State :=
  match s.processor.state with
  | .idle | .waitingSpace | .waitingRetire => s.setProc (takeTestState s)
  | .barrierWait | .purging | .halted | .discarding | .stopped => s

/-- The end of a happening in which an error may have stopped the device: the processor of a stopped device enters
STOPPED, with discard count 0 (R77, R162). -/
def stopProcessor (s : State) : State :=
  match s.runState with
  | .running => s
  | .stopped => { s with processor := { s.processor with state := .stopped, discardCount := 0 } }

/-! ## Freeing (R8–R10) -/

/-- A slot is eligible to free: DRAINING, nothing in flight, no children, no notice owed (R8). -/
def State.eligible (s : State) (i : SlotIx) : Bool :=
  decide ((s.grant i).state = .draining) && s.inFlight i == 0 && (s.grant i).children.isEmpty
    && (s.grant i).noticeOwed.isNone

/-- Takes an index out of a retire operation's member set. -/
def RetireOp.without (i : SlotIx) (op : RetireOp) : RetireOp := { op with members := op.members.filter (fun j => j != i) }

/-- Takes an index out of its parent's children set. -/
def unlinkChild (parent : Option SlotIx) (i : SlotIx) (s : State) : State :=
  match parent with
  | none => s
  | some p => s.setGrant p { s.grant p with children := (s.grant p).children.filter (fun j => j != i) }

/-- Frees one slot (R9). -/
def freeSlot (i : SlotIx) (s : State) : State :=
  let unlinked := unlinkChild (s.grant i).parent i (s.setGrant i (freeRecord ((s.grant i).generation + 1)))
  { unlinked with
    freeList := unlinked.freeList ++ [i]
    retire := unlinked.retire.map (Option.map (RetireOp.without i)) }

/-- Frees the lowest eligible slot, again and again, `n` times at most. -/
def freeLoop : Nat → State → State
  | 0, s => s
  | n + 1, s =>
    match s.slots.find? s.eligible with
    | none => s
    | some i => freeLoop n (freeSlot i s)

/-- Frees until no slot is eligible (R10). Each step leaves one DRAINING slot fewer, so 1024 steps suffice. -/
def freeAll (s : State) : State := freeLoop 1024 s

/-! ## Completion of retire operations and of a BARRIER (R109–R111, R75) -/

/-- The effects of a completed PURGE on the exclusion and freeze block (R111). R150 says that PURGE completion resets the
agent settings and the device configuration too; R111 and R145 keep them, and the model follows these (log entry 23). -/
def purgeEffects (s : State) : State :=
  { s with ranges := Vector.replicate 4 { enabled := false, base := 0, length := 0 }, freezeLevel := 0 }

/-- The completion record of a retire operation (R109). -/
def RetireOp.completion (op : RetireOp) : Completion where
  tag := op.tag
  status := if op.abandoned then .drainedAbandoned else .ok
  kind := retireKindCode op.kind
  handle := op.target
  result := .absent

/-- Writes a retire slot. -/
def State.setRetire (s : State) (k : RetireIx) (op : Option RetireOp) : State := { s with retire := s.retire.set k op }

/-- How a completed operation reaches the processor: the PURGE that it is PURGING for returns it to IDLE, and the take
test follows (R67, R76, R109). -/
def processorAfterRetire (kind : RetireKind) (s : State) : State :=
  if kind = .purge ∧ s.processor.state = .purging then takeTest (s.setProc .idle) else takeTest s

/-- Completes an operation: PURGE effects, then its record into its reservation, then its slot FREE (R109, R111). -/
def completeRetire (k : RetireIx) (op : RetireOp) (s : State) : State :=
  processorAfterRetire op.kind
    (((if op.kind = .purge then purgeEffects s else s).postReserved op.completion).setRetire k none)

/-- Completes the operation in a slot if its member set is empty. -/
def completeIfEmpty (s : State) (k : RetireIx) : State :=
  match s.retire[k] with
  | none => s
  | some op => if op.members.isEmpty then completeRetire k op s else s

/-- Completes every operation whose member set is empty, in ascending retire-slot order (R110). -/
def completeRetires (s : State) : State := (allBelow 8).foldl completeIfEmpty s

/-- The completion record of a BARRIER (R75). -/
def barrierCompletionRecord (tag : Byte) : Completion :=
  { tag := tag, status := .ok, kind := barrierCode, handle := none, result := .absent }

/-- Completes a waiting BARRIER when no operation is open: from BARRIER_WAIT the processor returns to IDLE and makes its
take test, and in STOPPED it stays (R75, R77, R110). -/
def completeBarrier (s : State) : State :=
  match s.processor.barrierTag with
  | none => s
  | some t =>
    if s.openCount ≠ 0 then s
    else match s.processor.state with
      | .barrierWait =>
        takeTest { s.postReserved (barrierCompletionRecord t) with
          processor := { s.processor with state := .idle, barrierTag := none } }
      | .stopped =>
        { s.postReserved (barrierCompletionRecord t) with processor := { s.processor with barrierTag := none } }
      | .idle | .waitingSpace | .waitingRetire | .purging | .halted | .discarding => s

/-- The three steps of R110: freeing, then retire completions, then the BARRIER. -/
def settle (s : State) : State := completeBarrier (completeRetires (freeAll s))

/-! ## Entry to DRAINING, notices, timeouts -/

/-- Moves the LIVE and SUSPENDED grants among the slots given to DRAINING (R6). -/
def drainSlots (which : SlotIx → Bool) (s : State) : State :=
  s.updateGrants (fun i g => if which i && g.state.inUse then { g with state := .draining } else g)

/-- Offers a lapse notice to the response queue: posted into an unreserved place, or else owed by its grant (R125). -/
def offerNotice (i : SlotIx) (n : Notice) (s : State) : State :=
  if s.unreserved = 0 then s.setGrant i { s.grant i with noticeOwed := some n } else s.post (.notice n)

/-- The owed notice of a slot is posted and its flag clears (R64). -/
def postOwedOf (i : SlotIx) (n : Notice) (s : State) : State :=
  (s.setGrant i { s.grant i with noticeOwed := none }).post (.notice n)

/-- Posts owed notices into unreserved places, lowest slot first, `n` of them at most (R64). -/
def postOwed : Nat → State → State
  | 0, s => s
  | n + 1, s =>
    if s.unreserved = 0 then s
    else match s.firstOwed with
      | none => s
      | some i =>
        match (s.grant i).noticeOwed with
        | none => s
        | some notice => postOwed n (postOwedOf i notice s)

/-- The drain timeout of an operation: it abandons the ISSUED entries under its members, and if there is one it sets
the abandoned flag and records an ABANDON error (R113). The timer is spent either way. The requesters are answered by
`timeoutRetires`, which knows all the timeouts of the happening. -/
def timeoutRetire (s : State) (k : RetireIx) : State :=
  match s.retire[k] with
  | none => s
  | some op =>
    if s.tracker.toList.any (fun e => e.issuedUnder op.members) then
      recordError .abandon k.val
        ((abandonEntries (fun e => e.issuedUnder op.members) s).setRetire k
          (some { op with drainRemaining := none, abandoned := true }))
    else s.setRetire k (some { op with drainRemaining := none })

/-- The members of a retire slot's operation; none of a FREE slot (R100). -/
def State.membersOf (s : State) (k : RetireIx) : List SlotIx :=
  match s.retire[k] with
  | none => []
  | some op => op.members

/-- The drain timeouts of one happening, in the order of the slots given (R114). Each entry they abandon is answered
ABANDONED, and the answers go out in ascending entry order over the whole happening, whichever operation abandoned the
entry (R24, R52, R113). -/
def timeoutRetires (ks : List RetireIx) (s : State) : State :=
  (ks.foldl timeoutRetire s).respondAll (s.answersTo (fun e => ks.any fun k => e.issuedUnder (s.membersOf k)) .abandoned)

/-- The lapse of one grant: stage 2 of the tick for it (R123, R124, R125). -/
def lapseGrant (s : State) (i : SlotIx) : State :=
  let moving := (s.grant i).state.inUse
  let moved := if moving then
      (s.slots.filter (fun j => j != i && s.within i j && (s.grant j).state.inUse)).length
    else 0
  let unleased := s.setGrant i { s.grant i with lease := none }
  let drained := if moving then drainSlots (s.within i) unleased else unleased
  let read := integrityRead i drained
  let g := read.grant i
  offerNotice i { handle := mkHandle i g.generation, label := g.ownerLabel, grantee := g.grantee, moved := moved } read

/-! ## Taking a command (R67–R70) -/

/-- A take is due: the processor is IDLE, and the take test with a command queued leaves it so (R66, R67). -/
def State.takeDue (s : State) : Bool :=
  decide (s.processor.state = .idle) && !s.commandQueue.isEmpty && decide (takeTestState s = .idle)

/-- How a command leaves its take: completed, with status, handle and result, or left open with its reservation. -/
inductive Verdict where
  | completes (status : Status) (handle : Option Handle) (result : Result)
  | stays
  deriving DecidableEq, Repr

/-- The end of a take: the completion into the reservation; then STOPPED in a stopped device, HALTED on a halting
status, or the take test (R68, R70, R77). A command that stays has left the processor as its own rule says. -/
def endTake (r : CommandRecord) (v : Verdict) (s : State) : State :=
  match v with
  | .stays => stopProcessor s
  | .completes st h res =>
    let posted := s.postReserved { tag := r.tag, status := st, kind := r.kindCode, handle := h, result := res }
    stopProcessor (if st.halts then posted.setProc .halted else takeTest posted)

/-- The head record leaves the queue, whose rest is given, and one place is reserved for its completion (R68). -/
def State.takeHead (s : State) (rest : List CommandRecord) : State :=
  { s with commandQueue := rest, reserved := s.reserved + 1 }

/-- Takes the head record if a take is due and its kind is the one wanted: it leaves the queue, reserves a place, is
judged by the general checks, and is executed, all in one happening (R68, R69). A take that is not due does not occur
(log entry 6). -/
def takeCommand (wanted : Option CommandKind) (body : CommandRecord → State → Verdict × State) (s : State) : State :=
  match s.commandQueue with
  | [] => s
  | r :: rest =>
    if s.takeDue ∧ r.kind = wanted then
      if r.generallyMalformed then endTake r (.completes .malformed none .absent) (s.takeHead rest)
      else endTake r (body r (s.takeHead rest)).1 (body r (s.takeHead rest)).2
    else s

/-- A command refused with a status, no handle and no result. -/
def refuse (st : Status) (s : State) : Verdict × State := (.completes st none .absent, s)

end Sys2Proof.Machine
end

