-- ==== Sys2Proof/Machine/AgentPort.lean ====
section
/-! DEFINITION. The agent port: presentations, the lane arbiter and the access checker (chapter 2). -/

namespace Sys2Proof.Machine

/-- Writes a lane. -/
def State.setLane (s : State) (a : AgentIx) (q : Option Request) : State := { s with lanes := s.lanes.set a q }

/-- Lane-ready of a lane (R22, R40). -/
def laneReady (s : State) (a : AgentIx) : Bool := !s.inReset && s.lanes[a].isNone

/-- An EMPTY lane holds a presented request and becomes WAITING; a WAITING lane does not accept it (R22). -/
def presentRequest (a : AgentIx) (q : Request) (s : State) : State :=
  match s.lanes[a] with
  | none => s.setLane a (some q)
  | some _ => s

/-- REQUEST_PRESENTED (R22, R23). -/
def execRequestPresented (a : AgentIx) (q : Request) (s : State) : Host.Outcome State Fault Refusal :=
  happening (presentRequest a q) s

/-! ## The lane arbiter -/

/-- A lane's request is takeable (R26). -/
def takeable (s : State) (a : AgentIx) : Bool :=
  s.lanes[a].isSome &&
    (decide (s.runState = .stopped) || !s.admitted a ||
      (decide (s.outstanding a < s.agents[a].limit) && s.firstEmpty.isSome))

/-- The lanes in the order the arbiter searches them: from the lane after the pointer, wrapping, the pointer's own lane
last (R28). -/
def searchOrder (pointer : AgentIx) : List AgentIx :=
  (allBelow 16).map (fun k => Fin.ofNat 16 (pointer.val + 1 + k.val))

/-- The lane the arbiter takes next (R28). -/
def nextLane (s : State) : Option AgentIx := (searchOrder s.lanePointer).find? (takeable s)

/-! ## The eleven checks (R29) -/

/-- Some ISSUED entry has this agent and this requester tag (R32). -/
def tagInFlight (s : State) (a : AgentIx) (tag : BitVec 4) : Bool :=
  s.tracker.toList.any (fun e => decide (e.state = .issued) && e.agent == a && e.tag == tag)

/-- Checks 1 to 5: the first that fails (R30–R33). -/
def checksToStale (s : State) (a : AgentIx) (q : Request) : Option FaultKind :=
  if s.runState = .stopped then some .stopped
  else if !s.admitted a then some .agentBlocked
  else if q.length.toNat = 0 ∨ 4096 < q.length.toNat ∨ (q.kind ≠ .read ∧ q.kind ≠ .write) then some .malformedRequest
  else if tagInFlight s a q.tag then some .duplicateTag
  else if !s.resolves q.handle then some .stale
  else none

/-- The request's kind is in the rights (R35). -/
def Rights.allows (r : Rights) : AccessKind → Bool
  | .read => r.read
  | .write => r.write
  | .invalid2 | .invalid3 => false

/-- Checks 6 to 11: the first that fails, after the integrity read of check 6 (R33–R35). -/
def checksFromDamaged (s : State) (a : AgentIx) (q : Request) : Option FaultKind :=
  let g := s.grant (handleSlot q.handle)
  if g.damaged then some .damaged
  else if g.state = .draining then some .revoked
  else if g.state = .suspended ∨
      (s.ancestors (handleSlot q.handle)).any (fun p => decide ((s.grant p).state = .suspended)) then some .suspended
  else if g.grantee ≠ a then some .notGrantee
  else if !g.rights.allows q.kind then some .rights
  else if g.length * 256 < q.offset.toNat + q.length.toNat then some .bounds
  else none

/-- The whole check of a taken request: the fault of the first failing check if any, and the state after the integrity
read of check 6 where the handle resolves (R29). -/
def accessCheck (a : AgentIx) (q : Request) (s : State) : Option FaultKind × State :=
  match checksToStale s a q with
  | some f => (some f, s)
  | none => (checksFromDamaged (integrityRead (handleSlot q.handle) s) a q, integrityRead (handleSlot q.handle) s)

/-! ## Passing and failing -/

/-- The translated physical address: base times 256 plus offset (R36). -/
def translate (base offset : BitVec 32) : BitVec 40 := base.setWidth 40 * 256 + offset.setWidth 40

/-- The tracker entry of a passing request (R36, R42). -/
def issuedEntry (a : AgentIx) (q : Request) (s : State) : Entry where
  state := .issued
  agent := a
  tag := q.tag
  grant := handleSlot q.handle
  kind := directionOf q.kind
  address := translate (s.grant (handleSlot q.handle)).base q.offset
  length := q.length.toNat

/-- The memory request of an entry (R45). -/
def memRequestOf (k : EntryIx) (e : Entry) (data : List Byte) : MemRequest where
  tag := k
  kind := e.kind
  address := e.address
  length := e.length
  writeData := match e.kind with
    | .write => some data
    | .read => none

/-- Hands a passing request to the tracker: the lowest EMPTY entry becomes ISSUED and its memory request is sent (R36,
R44, R45). A request passes only where an EMPTY entry exists (R26). -/
def issueAccess (a : AgentIx) (q : Request) (s : State) : State :=
  match s.firstEmpty with
  | none => s
  | some k =>
    let e := issuedEntry a q s
    { s.setEntry k e with out := { s.out with requests := s.out.requests ++ [memRequestOf k e q.data] } }

/-- The fault is stored in the fault slot, and auto-quarantine may follow (R37). -/
def FaultKind.stored : FaultKind → Bool
  | .stopped | .agentBlocked => false
  | .malformedRequest | .duplicateTag | .stale | .damaged | .revoked | .suspended | .notGrantee | .rights | .bounds
  | .memory => true

/-- The fault a failing request offers to the slot: its values as presented (R37). -/
def faultOfRequest (f : FaultKind) (q : Request) : HeldFault :=
  { kind := f, handle := q.handle, offset := q.offset, length := q.length.toNat, accessKind := q.kind, tag := q.tag,
    more := false }

/-- Answers a failing request with a FAULT response, and offers the fault to the slot where its kind is stored (R37). -/
def faultAccess (a : AgentIx) (q : Request) (f : FaultKind) (s : State) : State :=
  let answered := s.respond { lane := a, tag := q.tag, outcome := .fault f }
  if f.stored then offerFault a (faultOfRequest f q) answered else answered

/-- The take of one lane's request: pointer, lane, checks, and the passing or the fault (R28). -/
def takeLane (a : AgentIx) (q : Request) (s : State) : State :=
  let taken := { s.setLane a none with lanePointer := a }
  stopProcessor <|
    match accessCheck a q taken with
    | (none, checked) => issueAccess a q checked
    | (some f, checked) => faultAccess a q f checked

/-- One take of the lane arbiter. With no takeable request none occurs. -/
def accessTake (s : State) : State :=
  match nextLane s with
  | none => s
  | some a =>
    match s.lanes[a] with
    | none => s
    | some q => takeLane a q s

/-- ACCESS_TAKE (R28). -/
def execAccessTake (s : State) : Host.Outcome State Fault Refusal := happening accessTake s

end Sys2Proof.Machine
end

