-- ==== Sys2Proof/Machine/Draining.lean ====
section
/-! DEFINITION. The happenings of draining, each as a command of its own: freeing, the completion of a retire operation
and of a BARRIER, the posting of an owed notice, and a drain timeout (chapters 1, 4, 6). Where the spec makes one of
them part of another happening, that happening does it in its own turn through the same shared operations; as a command
of its own it occurs only in a state that meets its condition (log entry 7). -/

namespace Sys2Proof.Machine

/-- A slot that meets R8 frees, with every slot that this makes eligible; then operations and a BARRIER complete (R9,
R10, R110). -/
def freeing (i : SlotIx) (s : State) : State := if s.eligible i then settle s else s

/-- FREEING (R9). -/
def execFreeing (i : SlotIx) (s : State) : Host.Outcome State Fault Refusal := happening (freeing i) s

/-- An operation whose member set has emptied completes, and then a BARRIER that waits for it (R109, R110). -/
def retireCompletion (k : RetireIx) (s : State) : State :=
  match s.retire[k] with
  | none => s
  | some op => if op.members.isEmpty then completeBarrier (completeRetire k op s) else s

/-- RETIRE_COMPLETION (R109). -/
def execRetireCompletion (k : RetireIx) (s : State) : Host.Outcome State Fault Refusal :=
  happening (retireCompletion k) s

/-- BARRIER_COMPLETION (R75). -/
def execBarrierCompletion (s : State) : Host.Outcome State Fault Refusal := happening completeBarrier s

/-- The lowest owed notice is posted into an unreserved place; the freeing rule follows (R64, R8). -/
def owedNoticePosted (s : State) : State :=
  if s.unreserved = 0 ∨ s.firstOwed.isNone then s else takeTest (settle (postOwed 1 s))

/-- OWED_NOTICE_POSTED (R64). -/
def execOwedNoticePosted (s : State) : Host.Outcome State Fault Refusal := happening owedNoticePosted s

/-- The drain timer of the operation has run out: it holds 0, the value that stage 1 of a tick leaves for stage 3 to
spend (R112, R121). -/
def timedOut (s : State) (k : RetireIx) : Bool :=
  match s.retire[k] with
  | none => false
  | some op => decide (op.drainRemaining = some 0)

/-- An operation whose timer has run out times out; freeing and completions follow (R113, R110). -/
def drainTimeout (k : RetireIx) (s : State) : State :=
  if timedOut s k then stopProcessor (settle (timeoutRetires [k] s)) else s

/-- DRAIN_TIMEOUT (R113). -/
def execDrainTimeout (k : RetireIx) (s : State) : Host.Outcome State Fault Refusal := happening (drainTimeout k) s

end Sys2Proof.Machine
end

