-- ==== Sys2Proof/Machine/Grants.lean ====
section
/-! DEFINITION. CREATE, DERIVE, MODIFY and QUERY (chapter 5). -/

namespace Sys2Proof.Machine

/-! ## Allocation -/

/-- The record of an allocated slot (R14). -/
def allocatedRecord (r : CommandRecord) (generation : BitVec 6) (base : BitVec 32) (parent : Option SlotIx) (depth : Nat) :
    Grant where
  state := .live
  generation := generation
  grantee := r.agent
  base := base
  length := r.length
  rights := r.rights
  ownerLabel := r.label
  codeMatches := true
  parent := parent
  depth := depth
  children := []
  lease := leaseOf r.lease
  damaged := false
  noticeOwed := none

/-- The slot joins its parent's children set. -/
def linkChild (parent : Option SlotIx) (i : SlotIx) (s : State) : State :=
  match parent with
  | none => s
  | some p => s.setGrant p { s.grant p with children := insertIndex (s.grant p).children i }

/-- Allocates the slot at the head of the free list (R13, R14). -/
def allocate (r : CommandRecord) (i : SlotIx) (rest : List SlotIx) (base : BitVec 32) (parent : Option SlotIx)
    (depth : Nat) (s : State) : State :=
  linkChild parent i
    ({ s with freeList := rest }.setGrant i (allocatedRecord r (s.grant i).generation base parent depth))

/-- The last two checks and the allocation of CREATE and DERIVE: quota, then the free list (R89). -/
def allocateChecked (r : CommandRecord) (base : BitVec 32) (parent : Option SlotIx) (depth : Nat) (s : State) :
    Verdict × State :=
  if s.agents[r.agent].quota ≤ s.grantCount r.agent then refuse .quota s
  else match s.freeList with
    | [] => refuse .noFreeSlot s
    | i :: rest =>
      (.completes .ok (some (mkHandle i (s.grant i).generation)) .absent, allocate r i rest base parent depth s)

/-! ## CREATE -/

/-- Some enabled exclusion range overlaps the window [base, base + length) (R83). -/
def State.excluded (s : State) (base length : Nat) : Bool :=
  s.ranges.toList.any (fun x => x.enabled && windowsOverlap base length x.base.toNat x.length)

/-- The checks and effect of CREATE (R83, R84). -/
def createBody (r : CommandRecord) (s : State) : Verdict × State :=
  if r.grantOperandsBad then refuse .malformed s
  else if granules < r.base.toNat + r.length then refuse .badRange s
  else if s.excluded r.base.toNat r.length then refuse .excluded s
  else allocateChecked r r.base none 0 s

/-- CREATE (R83). -/
def execCreate (s : State) : Host.Outcome State Fault Refusal :=
  happening (takeCommand (some .create) createBody) s

/-! ## DERIVE -/

/-- Checks 3 to 9 of DERIVE, after the integrity read of its parent (R85, R87). -/
def deriveFrom (p : SlotIx) (r : CommandRecord) (s : State) : Verdict × State :=
  let g := s.grant p
  if g.damaged then refuse .damaged s
  else if !g.rights.delegable then refuse .notDelegable s
  else if 3 ≤ g.depth then refuse .depth s
  else if !r.rights.subset g.rights then refuse .notSubset s
  else if g.length < r.base.toNat + r.length then refuse .badRange s
  else allocateChecked r (g.base + r.base) (some p) (g.depth + 1) s

/-- The checks and effect of DERIVE (R85, R86, R88). -/
def deriveBody (r : CommandRecord) (s : State) : Verdict × State :=
  if r.grantOperandsBad then refuse .malformed s
  else if !s.resolves r.handle ∨ (s.grant (handleSlot r.handle)).state ≠ .live then refuse .notLive s
  else deriveFrom (handleSlot r.handle) r (integrityRead (handleSlot r.handle) s)

/-- DERIVE (R85). -/
def execDerive (s : State) : Host.Outcome State Fault Refusal :=
  happening (takeCommand (some .derive) deriveBody) s

/-! ## MODIFY -/

/-- Check 2 of MODIFY: the states that accept it (R92). -/
def modifyStateOk (r : CommandRecord) (st : GrantState) : Bool :=
  match st with
  | .live => !r.setResume
  | .suspended => !r.setSuspend
  | .free | .draining => false

/-- Check 4 of MODIFY: it would change rights or length (R94). -/
def CommandRecord.reshapes (r : CommandRecord) (g : Grant) : Bool :=
  (r.setRights && r.rights != g.rights) || (r.setLength && r.length != g.length)

/-- The grant with every selected option applied; the check code is computed anew when a checked field is written (R2,
R95). -/
def CommandRecord.applied (r : CommandRecord) (g : Grant) : Grant :=
  { g with
    rights := if r.setRights then r.rights else g.rights
    length := if r.setLength then r.length else g.length
    ownerLabel := if r.setLabel then r.label else g.ownerLabel
    codeMatches := g.codeMatches || r.setRights || r.setLength || r.setLabel
    lease := if r.setLease then leaseOf r.lease else g.lease
    state := if r.setSuspend then .suspended else if r.setResume then .live else g.state }

/-- Checks 3 to 6 and the effect of MODIFY, after the integrity read of its target (R91, R93–R95). -/
def modifyTarget (i : SlotIx) (r : CommandRecord) (s : State) : Verdict × State :=
  let g := s.grant i
  let answer (st : Status) : Verdict := .completes st (some r.handle) .absent
  if g.damaged && !r.suspendOnly then (answer .damaged, s)
  else if !g.children.isEmpty && r.reshapes g then (answer .hasDescendants, s)
  else if r.setRights && !r.rights.subset g.rights then (answer .notSubset, s)
  else if r.setLength && decide (g.length < r.length) then (answer .badRange, s)
  else (answer .ok, s.setGrant i (r.applied g))

/-- The checks and effect of MODIFY (R90–R95). -/
def modifyBody (r : CommandRecord) (s : State) : Verdict × State :=
  if r.modifyBad then refuse .malformed s
  else if !s.resolves r.handle ∨ !modifyStateOk r (s.grant (handleSlot r.handle)).state then
    (.completes .notLive (some r.handle) .absent, s)
  else modifyTarget (handleSlot r.handle) r (integrityRead (handleSlot r.handle) s)

/-- MODIFY (R91). -/
def execModify (s : State) : Host.Outcome State Fault Refusal :=
  happening (takeCommand (some .modify) modifyBody) s

/-! ## QUERY -/

/-- The grant record QUERY returns (R99). -/
def queryResult (s : State) (i : SlotIx) : QueryResult where
  state := (s.grant i).state
  grantee := (s.grant i).grantee
  base := (s.grant i).base
  length := (s.grant i).length
  rights := (s.grant i).rights
  ownerLabel := (s.grant i).ownerLabel
  parent := (s.grant i).parent.map (fun p => mkHandle p (s.grant p).generation)
  depth := (s.grant i).depth
  childCount := (s.grant i).children.length
  lease := (s.grant i).lease
  inFlight := s.inFlight i
  damaged := (s.grant i).damaged
  noticeOwed := (s.grant i).noticeOwed.isSome

/-- QUERY reads back the grant a handle resolves to (R99). -/
def queryBody (r : CommandRecord) (s : State) : Verdict × State :=
  if s.resolves r.handle then
    let read := integrityRead (handleSlot r.handle) s
    (.completes .ok (some r.handle) (.queried (queryResult read (handleSlot r.handle))), read)
  else (.completes .notLive (some r.handle) .absent, s)

/-- QUERY (R99). -/
def execQuery (s : State) : Host.Outcome State Fault Refusal :=
  happening (takeCommand (some .query) queryBody) s

end Sys2Proof.Machine
end

