-- ==== Sys2Proof/Machine/Resets.lean ====
section
/-! DEFINITION. The three resets and the release of reset. -/

namespace Sys2Proof.Machine

/-- A slot's record after a hardware or soft reset: the FREE values, with the generation advanced if the slot was not
FREE (R21), and with a fresh check code (R173). -/
def releasedRecord (g : Grant) : Grant := freeRecord (if g.state = .free then g.generation else g.generation + 1)

/-- The state while power-up or RST# is in progress: every block at its power-on state but for the generation store
given, with the input pin CS#, the free values drawn and the waiting commands as they were (R20, R40, R57, R78, R118,
R130, R145, R156, R167, R176). -/
def inResetState (generations : GrantTable) (s : State) : State :=
  { State.reset with
    inReset := true
    grants := generations
    csAsserted := s.csAsserted
    freeDraws := s.freeDraws
    pending := s.pending }

/-- POWER_ON_RESET (R20): every slot FREE at generation 0, every other block at its defaults. -/
def execPowerOnReset (s : State) : Host.Outcome State Fault Refusal := .next (inResetState [] s)

/-- HARDWARE_RESET (R21): every non-FREE slot becomes FREE with its generation advanced, the generations of FREE slots
are kept, and every other block takes its defaults. -/
def execHardwareReset (s : State) : Host.Outcome State Fault Refusal :=
  .next (inResetState (mapGrants (fun _ g => releasedRecord g) s.grants) s)

/-- RESET to the waiting requests of the lanes, in lane order, which is the model's choice (R41; log entry 22). -/
def laneResets (s : State) : List LaneResponse :=
  (allBelow 16).filterMap fun a => s.lanes[a].map fun q => { lane := a, tag := q.tag, outcome := .reset }

/-- The soft reset of every block (R21, R41, R56, R79, R118, R130, R145, R156, R167, R176): responses for entries go out
first, then those for waiting lane requests: on each lane the order of R24, and between lanes the model's choice (log
entry 22). -/
def softReset (s : State) : State :=
  let issued (e : Entry) : Bool := decide (e.state = .issued)
  { (abandonEntries issued s).respondAll (s.answersTo issued .reset ++ laneResets s) with
    lanes := Vector.replicate 16 none
    lanePointer := 15
    grants := mapGrants (fun _ g => releasedRecord g) s.grants
    freeList := allBelow 1024
    commandQueue := []
    responseQueue := []
    reserved := 0
    processor := { state := .idle, discardCount := 0, barrierTag := none }
    staging := { c0 := 0, c1 := 0, c2 := 0, c3 := 0, c4 := 0, c5 := 0 }
    pushRefused := false
    retire := Vector.replicate 8 none
    faultSlots := Vector.replicate 16 none
    faultSelect := 0
    runState := .running
    intEnable := 0 }

/-- SOFT_RESET (R79): a write of the soft-reset action to CONTROL. -/
def execSoftReset (s : State) : Host.Outcome State Fault Refusal := happening softReset s

/-- The release of RST# or the end of power-up: the ports open, the lease clock starts its first full period, and the
service port enters IDLE, or IGNORING if CS# is asserted (R40, R130, R176). -/
def releaseReset (s : State) : State :=
  { s with
    inReset := false
    clock := { s.clock with progress := 0 }
    service := { s.service with frame := if s.csAsserted then .ignoring else .idle } }

/-- RESET_RELEASE (R40). Out of reset there is nothing to release, and the happening does not occur. -/
def execResetRelease (s : State) : Host.Outcome State Fault Refusal :=
  .next (if s.inReset then releaseReset s.quiet else s.quiet)

end Sys2Proof.Machine
end

