-- ==== Sys2Proof/Machine/HostPort.lean ====
section
/-! DEFINITION. Host writes: pushing and popping, the actions of CONTROL, discard removals, and the other registers
(chapters 4 and 12). -/

namespace Sys2Proof.Machine

/-- A push copies the staging words to the tail of a queue of fewer than 32 records; a full queue refuses it and sets
PUSH_REFUSED (R58, R60). A push into an empty queue makes the take test (R67). -/
def pushCommand (s : State) : State :=
  if 32 ≤ s.commandQueue.length then { s with pushRefused := true }
  else
    let pushed := { s with commandQueue := s.commandQueue ++ [s.staging] }
    if s.commandQueue.isEmpty then takeTest pushed else pushed

/-- PUSH: a write to CMD_PUSH, whose value is not used (R58). -/
def execPush (_value : Word) (s : State) : Host.Outcome State Fault Refusal := happening pushCommand s

/-- A pop removes the head of a non-empty response queue; owed notices take the places freed, the freeing they allow and
its completions follow, and the processor makes its take test (R63, R64, R65). -/
def popResponse (s : State) : State :=
  match s.responseQueue with
  | [] => s
  | _ :: rest =>
    let popped := { s with responseQueue := rest }
    takeTest (if popped.owesNotice then settle (postOwed 32 popped) else popped)

/-- POP: a write to RSP_POP, whose value is not used (R63). -/
def execPop (_value : Word) (s : State) : Host.Outcome State Fault Refusal := happening popResponse s

/-- The RESUME action: a HALTED processor returns to IDLE and makes its take test (R71). -/
def resumeAction (s : State) : State :=
  if s.processor.state = .halted then takeTest (s.setProc .idle) else s

/-- The DISCARD action: a HALTED processor takes the queue length as its discard count and enters DISCARDING, or returns
to IDLE when that is 0 (R72). -/
def discardAction (s : State) : State :=
  if s.processor.state = .halted then
    if s.commandQueue.isEmpty then takeTest (s.setProc .idle)
    else { s with processor := { s.processor with state := .discarding, discardCount := s.commandQueue.length } }
  else s

/-- The PUSH_REFUSED clear action (R60). -/
def clearPushRefused (s : State) : State := { s with pushRefused := false }

/-- RESUME: a write of that action to CONTROL (R71). -/
def execResume (s : State) : Host.Outcome State Fault Refusal := happening resumeAction s

/-- DISCARD: a write of that action to CONTROL (R72). -/
def execDiscard (s : State) : Host.Outcome State Fault Refusal := happening discardAction s

/-- PUSH_REFUSED_CLEAR: a write of that action to CONTROL (R60). -/
def execPushRefusedClear (s : State) : Host.Outcome State Fault Refusal := happening clearPushRefused s

/-- The completion of a discarded command (R73). -/
def discardedRecord (r : CommandRecord) : Completion :=
  { tag := r.tag, status := .discarded, kind := r.kindCode, handle := none, result := .absent }

/-- One discard removal, made while DISCARDING with no notice owed and an unreserved place (R73). -/
def discardRemoval (s : State) : State :=
  match s.commandQueue with
  | [] => s
  | r :: rest =>
    if s.processor.state = .discarding ∧ s.owesNotice = false ∧ s.unreserved ≠ 0 then
      let removed := { s.post (.completion (discardedRecord r)) with
        commandQueue := rest
        processor := { s.processor with discardCount := s.processor.discardCount - 1 } }
      if s.processor.discardCount ≤ 1 then takeTest (removed.setProc .idle) else removed
    else s

/-- DISCARD_REMOVAL (R73). -/
def execDiscardRemoval (s : State) : Host.Outcome State Fault Refusal := happening discardRemoval s

/-- A write to CONTROL: SOFT_RESET overrides the other actions, DISCARD overrides RESUME, and the PUSH_REFUSED clear acts
in every write without SOFT_RESET (R71, R178). -/
def writeControl (v : Word) (s : State) : State :=
  if v.getLsbD 2 then softReset s
  else
    let cleared := if v.getLsbD 3 then clearPushRefused s else s
    if v.getLsbD 1 then discardAction cleared
    else if v.getLsbD 0 then resumeAction cleared
    else cleared

/-- A write to ERROR_CLEAR empties the error record (R161). -/
def clearErrors (s : State) : State := { s with errors := ErrorRecord.cleared }

/-- ERROR_CLEAR: the value written is not used (R161). -/
def execErrorClear (_value : Word) (s : State) : Host.Outcome State Fault Refusal := happening clearErrors s

/-- The agent a written value names: 0–15 (R178). -/
def agentOfWord (v : Word) : Option AgentIx := if h : v.toNat < 16 then some ⟨v.toNat, h⟩ else none

/-- A write to FAULT_ACK empties the named agent's fault slot; a value above 15 acknowledges none (R143, R178). -/
def acknowledgeFault (v : Word) (s : State) : State :=
  match agentOfWord v with
  | none => s
  | some a => s.setFaultSlot a none

/-- FAULT_ACK (R143). -/
def execFaultAck (value : Word) (s : State) : Host.Outcome State Fault Refusal := happening (acknowledgeFault value) s

/-- A write to FAULT_SELECT selects an agent; a value above 15 has no effect (R178). -/
def selectFault (v : Word) (s : State) : State :=
  match agentOfWord v with
  | none => s
  | some a => { s with faultSelect := a }

/-- FAULT_SELECT (R178). -/
def execFaultSelect (value : Word) (s : State) : Host.Outcome State Fault Refusal := happening (selectFault value) s

/-- A write to INT_ENABLE stores all 32 bits and so replaces the six enables (R165, R177). -/
def writeEnables (v : Word) (s : State) : State := { s with intEnable := v }

/-- INT_ENABLE (R165). -/
def execIntEnable (value : Word) (s : State) : Host.Outcome State Fault Refusal := happening (writeEnables value) s

/-- A write to a register, by its byte offset (R177). -/
def hostWrite (reg : BitVec 5) (v : Word) (s : State) : State :=
  match reg.toNat * 4 with
  | 0x08 => writeControl v s
  | 0x10 => writeEnables v s
  | 0x1C => clearErrors s
  | 0x20 => { s with staging := { s.staging with c0 := v } }
  | 0x24 => { s with staging := { s.staging with c1 := v } }
  | 0x28 => { s with staging := { s.staging with c2 := v } }
  | 0x2C => { s with staging := { s.staging with c3 := v } }
  | 0x30 => { s with staging := { s.staging with c4 := v } }
  | 0x34 => { s with staging := { s.staging with c5 := v } }
  | 0x38 => pushCommand s
  | 0x58 => popResponse s
  | 0x64 => selectFault v s
  | 0x68 => acknowledgeFault v s
  | _ => s

/-- REGISTER_WRITE: a host write of a word to any of the 32 word positions of the window (R177). The rows of the table
that are a write to one register are the same writes; a CONTROL write that carries several actions is this one. -/
def execRegisterWrite (reg : BitVec 5) (value : Word) (s : State) : Host.Outcome State Fault Refusal :=
  happening (hostWrite reg value) s

end Sys2Proof.Machine
end

