-- ==== Sys2Proof/Machine/LeaseClock.lean ====
section
/-! DEFINITION. The lease tick and the lapse (chapter 7). -/

namespace Sys2Proof.Machine

/-- Stage 1 for a grant: the lease of a LIVE or SUSPENDED grant falls by 1 (R122). -/
def countLease (g : Grant) : Grant := if g.state.inUse then { g with lease := g.lease.map (· - 1) } else g

/-- Stage 1 for a retire operation: a drain timer that is present falls by 1 (R112). -/
def RetireOp.countDrain (op : RetireOp) : RetireOp := { op with drainRemaining := op.drainRemaining.map (· - 1) }

/-- Stage 1: every counting lease and every drain timer falls by 1 (R121). -/
def countdown (s : State) : State :=
  { s.updateGrants (fun _ g => countLease g) with retire := s.retire.map (Option.map RetireOp.countDrain) }

/-- The lease of a LIVE or SUSPENDED grant has reached 0. -/
def lapsing (s : State) (i : SlotIx) : Bool := (s.grant i).state.inUse && decide ((s.grant i).lease = some 0)

/-- The lease clock at a tick: a pending period code becomes current and absent, and a new period starts (R119,
R120). -/
def LeaseClock.tick (c : LeaseClock) : LeaseClock := { current := c.pending.getD c.current, pending := none, progress := 0 }

/-- Stages 1 to 3 of a tick: countdown, lapses in ascending slot order, timeouts in ascending retire-slot order. -/
def tickStages (s : State) : State :=
  let counted := countdown s
  let lapsed := (counted.slots.filter (lapsing counted)).foldl lapseGrant counted
  timeoutRetires ((allBelow 8).filter (timedOut counted)) lapsed

/-- The six stages of a tick (R121). -/
def leaseTick (s : State) : State :=
  let settled := settle (tickStages s)
  stopProcessor (takeTest { settled with clock := settled.clock.tick })

/-- LEASE_TICK (R121). -/
def execLeaseTick (s : State) : Host.Outcome State Fault Refusal := happening leaseTick s

/-- A grant whose lease has reached 0 lapses; freeing and completions follow (R123, R6, R8). -/
def lapse (i : SlotIx) (s : State) : State :=
  if (s.grant i).state ≠ .free ∧ (s.grant i).lease = some 0 then stopProcessor (takeTest (settle (lapseGrant s i))) else s

/-- LAPSE (R123). -/
def execLapse (i : SlotIx) (s : State) : Host.Outcome State Fault Refusal := happening (lapse i) s

end Sys2Proof.Machine
end

