-- ==== Sys2Proof/Machine/Revoking.lean ====
section
/-! DEFINITION. REVOKE, REVOKE_AGENT, PURGE and BARRIER (chapters 4 and 6). -/

namespace Sys2Proof.Machine

/-- The FREE retire slot with the lowest number (R101). -/
def State.freeRetire (s : State) : Option RetireIx := (allBelow 8).find? (fun k => s.retire[k].isNone)

/-- The drain timer an operation opens with (R112). -/
def openingTimer (timeout : Nat) : Option Nat := if timeout = 0 then none else some timeout

/-- The operation a revoking command opens (R101). -/
def openedOp (kind : RetireKind) (tag : Byte) (target : Option Handle) (members : List SlotIx) (timeout : Nat) : RetireOp :=
  { kind := kind, tag := tag, target := target, members := members, drainRemaining := openingTimer timeout,
    abandoned := false }

/-- Step 5 of R101: the members that are LIVE or SUSPENDED enter DRAINING, and if any did the freeing rule is applied.
Where none did, no freeing test is made (R104). -/
def drainMembers (members : List SlotIx) (s : State) : State :=
  if members.any (fun i => (s.grant i).state.inUse) then freeAll (drainSlots (fun i => members.contains i) s) else s

/-- Step 6 of R101: other operations that the freeing emptied complete first, in ascending order; then this one if its
own set is empty (R107). -/
def completeTakes (k : RetireIx) (s : State) : State :=
  completeIfEmpty (((allBelow 8).filter (fun j => j != k)).foldl completeIfEmpty s) k

/-- How the processor goes on after a revoking command's take: PURGING while a PURGE stays open, and else the take test
(R76, R101). -/
def afterOpening (kind : RetireKind) (k : RetireIx) (s : State) : State :=
  if kind = .purge ∧ s.retire[k].isSome then s.setProc .purging else takeTest s

/-- Opens the lowest FREE retire slot for a revoking command and drains its members (R101). A take of a revoking command
is due only while a slot is FREE (R67). -/
def openOperation (kind : RetireKind) (r : CommandRecord) (target : Option Handle) (members : List SlotIx) (s : State) :
    State :=
  match s.freeRetire with
  | none => s
  | some k =>
    afterOpening kind k (completeTakes k (drainMembers members
      (s.setRetire k (some (openedOp kind r.tag target members s.config.drainTimeout)))))

/-! ## REVOKE -/

/-- The members of a REVOKE: the grant and every non-FREE descendant (R103). -/
def revokeMembers (s : State) (i : SlotIx) : List SlotIx := s.nonFree.filter (fun j => s.within i j)

/-- The checks and effect of REVOKE (R103, R104). -/
def revokeBody (r : CommandRecord) (s : State) : Verdict × State :=
  if s.resolves r.handle then
    let read := integrityRead (handleSlot r.handle) s
    (.stays, openOperation .revoke r (some r.handle) (revokeMembers read (handleSlot r.handle)) read)
  else (.completes .notLive (some r.handle) .absent, s)

/-- REVOKE (R103). -/
def execRevoke (s : State) : Host.Outcome State Fault Refusal :=
  happening (takeCommand (some .revoke) revokeBody) s

/-! ## REVOKE_AGENT -/

/-- The members of a REVOKE_AGENT: the non-FREE grants of the agent, and every non-FREE descendant of one (R105). -/
def agentMembers (s : State) (a : AgentIx) : List SlotIx :=
  s.nonFree.filter (fun j => (j :: s.ancestors j).any (fun p => (s.grant p).grantee == a))

/-- The effect of REVOKE_AGENT (R105). -/
def revokeAgentBody (r : CommandRecord) (s : State) : Verdict × State :=
  let read := integrityScan s
  (.stays, openOperation .revokeAgent r none (agentMembers read r.agent) read)

/-- REVOKE_AGENT (R105). -/
def execRevokeAgent (s : State) : Host.Outcome State Fault Refusal :=
  happening (takeCommand (some .revokeAgent) revokeAgentBody) s

/-! ## PURGE -/

/-- The effect of PURGE: every non-FREE grant is a member, and no integrity comparison is made (R106). -/
def purgeBody (r : CommandRecord) (s : State) : Verdict × State :=
  (.stays, openOperation .purge r none s.nonFree s)

/-- PURGE (R106). -/
def execPurge (s : State) : Host.Outcome State Fault Refusal :=
  happening (takeCommand (some .purge) purgeBody) s

/-! ## BARRIER -/

/-- The effect of BARRIER: it completes at once when no operation is open, and else waits (R75). -/
def barrierBody (r : CommandRecord) (s : State) : Verdict × State :=
  if s.openCount = 0 then (.completes .ok none .absent, s)
  else (.stays, { s with processor := { s.processor with state := .barrierWait, barrierTag := some r.tag } })

/-- BARRIER (R75). -/
def execBarrier (s : State) : Host.Outcome State Fault Refusal :=
  happening (takeCommand (some .barrier) barrierBody) s

end Sys2Proof.Machine
end

