-- ==== Sys2Proof/Machine/Registers.lean ====
section
/-! DEFINITION. What the host reads in the register window and what the service port's snapshots report (chapter 12).
Reads change no state and are no row of the table; they are functions of the state (log entry 11). -/

namespace Sys2Proof.Machine

/-! ## The register window (R177–R179) -/

/-- DEV_STATUS (R179). -/
def devStatus (s : State) : Word := packWord
  [⟨0, 1, runCode s.runState⟩, ⟨1, 3, procCode s.processor.state⟩, ⟨4, 2, s.freezeLevel.val⟩,
   ⟨6, 1, s.pushRefused.toNat⟩, ⟨8, 2, s.clock.current.val⟩, ⟨10, 1, s.clock.pending.isSome.toNat⟩,
   ⟨11, 2, (s.clock.pending.getD 0).val⟩]

/-- QUEUE_LEVELS (R179). -/
def queueLevels (s : State) : Word := packWord
  [⟨0, 6, s.commandQueue.length⟩, ⟨6, 6, s.responseQueue.length⟩, ⟨12, 4, s.reserved⟩, ⟨16, 7, s.level .issued⟩,
   ⟨23, 7, s.level .abandoned⟩]

/-- INT_CAUSE: all six causes as they stand, enabled or not (R164, R179). -/
def intCause (s : State) : Word := packWord (Cause.all.map fun c => ⟨c.bit, 1, (causePresent s c).toNat⟩)

/-- ERROR_RECORD (R179). -/
def errorWord (e : ErrorRecord) : Word := packWord
  [⟨0, 1, e.integrity.toNat⟩, ⟨1, 1, e.stray.toNat⟩, ⟨2, 1, e.abandon.toNat⟩, ⟨3, 1, e.further.toNat⟩,
   ⟨4, 1, e.first.isSome.toNat⟩, ⟨5, 2, (e.first.map fun f => errorCode f.errorClass).getD 0⟩,
   ⟨16, 10, (e.first.map FirstError.detail).getD 0⟩]

/-- FAULT_SUMMARY (R179). -/
def faultSummary (s : State) : Word := packWord
  ((allBelow 16).map (fun a => ⟨a.val, 1, s.faultSlots[a].isSome.toNat⟩)
    ++ (allBelow 16).map (fun a => ⟨16 + a.val, 1, (decide (s.agents[a].state = .quarantined)).toNat⟩))

/-- FAULT_WORD0 of a fault slot (R179). -/
def faultWord0 : Option HeldFault → Word
  | none => 0
  | some f => packWord
    [⟨0, 1, 1⟩, ⟨1, 1, f.more.toNat⟩, ⟨4, 4, faultCode f.kind⟩, ⟨8, 4, f.tag.toNat⟩, ⟨12, 2, accessCode f.accessKind⟩,
     ⟨16, 16, f.handle.toNat⟩]

/-- FAULT_WORD1 of a fault slot (R179). -/
def faultWord1 : Option HeldFault → Word
  | none => 0
  | some f => f.offset

/-- FAULT_WORD2 of a fault slot (R179). -/
def faultWord2 : Option HeldFault → Word
  | none => 0
  | some f => packWord [⟨0, 13, f.length⟩]

/-- FAULT_WORD3: the agent selected and its state (R179). -/
def faultWord3 (s : State) : Word := packWord
  [⟨0, 4, s.faultSelect.val⟩, ⟨4, 2, agentCode s.agents[s.faultSelect].state⟩]

/-! ### The response record (R182) -/

/-- A handle field; absent reads as 0 (R180). -/
def handleField (h : Option Handle) : Nat := (h.map BitVec.toNat).getD 0

/-- The six words of a QUERY's result, without its record's own fields (R182). -/
def queryWords (q : QueryResult) : List (List Placed) :=
  [[], [⟨16, 16, q.ownerLabel.toNat⟩], [⟨0, 32, q.base.toNat⟩],
   [⟨0, 25, q.length⟩, ⟨25, 3, rightsBits q.rights⟩, ⟨28, 2, grantCode q.state⟩, ⟨30, 2, q.depth⟩],
   [⟨0, 16, handleField q.parent⟩, ⟨16, 10, q.childCount⟩, ⟨26, 4, q.grantee.val⟩, ⟨30, 1, q.damaged.toNat⟩,
    ⟨31, 1, q.noticeOwed.toNat⟩],
   [⟨0, 20, q.lease.getD 0⟩, ⟨20, 1, q.lease.isSome.toNat⟩, ⟨21, 7, q.inFlight⟩]]

/-- The six words of a result, without the record's own fields (R182). -/
def resultWords : Result → List (List Placed)
  | .absent => [[], [], [], [], [], []]
  | .queried q => queryWords q
  | .conflicting h => [[], [], [⟨0, 16, h.toNat⟩], [], [], []]

/-- The fields of a response record that are not its result, word by word (R182). -/
def recordWords : ResponseRecord → List (List Placed)
  | .completion c =>
    [[⟨0, 4, 1⟩, ⟨8, 8, c.tag.toNat⟩, ⟨16, 8, statusCode c.status⟩, ⟨24, 8, c.kind.toNat⟩], [⟨0, 16, handleField c.handle⟩],
     [], [], [], []]
  | .notice n =>
    [[⟨0, 4, 2⟩], [⟨0, 16, n.handle.toNat⟩, ⟨16, 16, n.label.toNat⟩], [], [],
     [⟨16, 10, n.moved⟩, ⟨26, 4, n.grantee.val⟩], []]

/-- The result of a response record. -/
def ResponseRecord.result : ResponseRecord → Result
  | .completion c => c.result
  | .notice _ => .absent

/-- RSP_WORD0–5 of a record (R182). -/
def responseWord (r : ResponseRecord) (w : Nat) : Word :=
  packWord ((recordWords r)[w]?.getD [] ++ (resultWords r.result)[w]?.getD [])

/-- RSP_WORD0–5: the head record, or a record of kind NONE (R61, R182). -/
def rspWord (s : State) (w : Nat) : Word :=
  match s.responseQueue with
  | [] => 0
  | r :: _ => responseWord r w

/-- The word a register shows out of reset, by its byte offset (R177). -/
def registerWord (s : State) (reg : BitVec 5) : Word :=
  match reg.toNat * 4 with
  | 0x00 => 0x0001064A
  | 0x04 => devStatus s
  | 0x0C => queueLevels s
  | 0x10 => s.intEnable
  | 0x14 => intCause s
  | 0x18 => errorWord s.errors
  | 0x20 => s.staging.c0
  | 0x24 => s.staging.c1
  | 0x28 => s.staging.c2
  | 0x2C => s.staging.c3
  | 0x30 => s.staging.c4
  | 0x34 => s.staging.c5
  | 0x40 => rspWord s 0
  | 0x44 => rspWord s 1
  | 0x48 => rspWord s 2
  | 0x4C => rspWord s 3
  | 0x50 => rspWord s 4
  | 0x54 => rspWord s 5
  | 0x60 => faultSummary s
  | 0x64 => packWord [⟨0, 4, s.faultSelect.val⟩]
  | 0x70 => faultWord0 s.faultSlots[s.faultSelect]
  | 0x74 => faultWord1 s.faultSlots[s.faultSelect]
  | 0x78 => faultWord2 s.faultSlots[s.faultSelect]
  | 0x7C => faultWord3 s
  | _ => 0

/-- A host read: 0 while in reset, and else the register's word (R177). -/
def readRegister (s : State) (reg : BitVec 5) : Word := if s.inReset then 0 else registerWord s reg

/-! ## Service port snapshots (R172, R173, R183) -/

/-- The 10 bytes of STATUS_READ. -/
def statusBytes (s : State) : List Byte :=
  packByte [⟨7, 1, runCode s.runState⟩, ⟨4, 3, procCode s.processor.state⟩, ⟨0, 2, s.freezeLevel.val⟩]
    :: beBytes 1 s.commandQueue.length ++ beBytes 1 s.responseQueue.length ++ beBytes 1 s.reserved
    ++ beBytes 2 s.freeList.length ++ beBytes 1 s.openCount
    ++ beBytes 1 (s.level .issued) ++ beBytes 1 (s.level .abandoned) ++ beBytes 1 (s.level .empty)

/-- The 3 bytes of ERROR_READ. With first error empty, its class bits and its detail are sent as 0, which is the model's
choice: R172 and R183 give them no value there (log entry 25). -/
def errorBytes (e : ErrorRecord) : List Byte :=
  packByte [⟨0, 1, e.integrity.toNat⟩, ⟨1, 1, e.stray.toNat⟩, ⟨2, 1, e.abandon.toNat⟩, ⟨3, 1, e.further.toNat⟩,
      ⟨4, 1, e.first.isSome.toNat⟩, ⟨5, 2, (e.first.map fun f => errorCode f.errorClass).getD 0⟩]
    :: beBytes 2 ((e.first.map FirstError.detail).getD 0)

/-- Bytes 7 to 16 of AGENT_READ: the fault slot, 0 when EMPTY. -/
def faultBytes : Option HeldFault → List Byte
  | none => List.replicate 10 0
  | some f =>
    beBytes 1 (faultCode f.kind) ++ beBytes 2 f.handle.toNat ++ beBytes 4 f.offset.toNat ++ beBytes 2 f.length
      ++ [packByte [⟨0, 2, accessCode f.accessKind⟩, ⟨4, 4, f.tag.toNat⟩]]

/-- A fault slot is HELD with "more" set. -/
def slotMore : Option HeldFault → Bool
  | none => false
  | some f => f.more

/-- The 17 bytes of AGENT_READ. -/
def agentBytes (s : State) (a : AgentIx) : List Byte :=
  packByte [⟨0, 2, agentCode s.agents[a].state⟩, ⟨2, 1, s.agents[a].hold.toNat⟩, ⟨3, 1, s.agents[a].autoQuarantine.toNat⟩,
      ⟨4, 1, s.faultSlots[a].isSome.toNat⟩, ⟨5, 1, (slotMore s.faultSlots[a]).toNat⟩]
    :: beBytes 2 s.agents[a].quota ++ beBytes 1 s.agents[a].limit
    ++ beBytes 2 (s.grantCount a) ++ beBytes 1 (s.outstanding a) ++ faultBytes s.faultSlots[a]

/-- The 21 + 2n bytes of GRANT_READ. -/
def grantBytes (s : State) (i : SlotIx) : List Byte :=
  let g := s.grant i
  [packByte [⟨6, 2, grantCode g.state⟩, ⟨0, 6, g.generation.toNat⟩],
   packByte [⟨4, 4, g.grantee.val⟩, ⟨0, 3, rightsBits g.rights⟩],
   packByte [⟨0, 2, g.depth⟩, ⟨2, 1, g.damaged.toNat⟩, ⟨3, 1, g.noticeOwed.isSome.toNat⟩, ⟨4, 1, g.parent.isSome.toNat⟩,
     ⟨5, 1, g.lease.isSome.toNat⟩]]
    ++ beBytes 4 g.base.toNat ++ beBytes 4 g.length ++ beBytes 2 g.ownerLabel.toNat
    ++ beBytes 2 ((g.parent.map Fin.val).getD 0) ++ beBytes 3 (g.lease.getD 0) ++ beBytes 1 (s.inFlight i)
    ++ beBytes 2 g.children.length ++ g.children.flatMap (fun j => beBytes 2 j.val)

/-- The data byte of HOLD and UNHOLD: the agent's state and hold as they stand (R174). -/
def holdByte (r : Agent) : Byte := packByte [⟨0, 2, agentCode r.state⟩, ⟨2, 1, r.hold.toNat⟩]

end Sys2Proof.Machine
end

