-- ==== Sys2Proof/Machine/Service.lean ====
section
/-! DEFINITION. The service port: CS#, full bytes, and the judgement of a frame (chapter 11). -/

namespace Sys2Proof.Machine

/-- Writes the service port. -/
def State.setService (s : State) (p : ServicePort) : State := { s with service := p }

/-- The byte shifted out on MISO during a full byte. -/
def State.sendMiso (s : State) (b : Byte) : State := { s with out := { s.out with miso := some b } }

/-! ## CS# -/

/-- The service port in IDLE. -/
def ServicePort.idle : ServicePort := { frame := .idle, received := [], answer := [], sent := 0 }

/-- CS_ASSERTED (R168): the pin is asserted, and out of reset an IDLE port enters COMMAND with no bytes received. -/
def execCsAsserted (s : State) : Host.Outcome State Fault Refusal :=
  .next
    (if s.inReset = false ∧ s.service.frame = .idle then
      { s.quiet with csAsserted := true, service := { frame := .command, received := [], answer := [], sent := 0 } }
    else { s.quiet with csAsserted := true })

/-- CS_DEASSERTED (R168, R171): the pin is deasserted, and the port returns to IDLE from any frame state. -/
def execCsDeasserted (s : State) : Host.Outcome State Fault Refusal :=
  .next { s.quiet with csAsserted := false, service := ServicePort.idle }

/-! ## Judgement (R169, R170) -/

/-- The result bytes (R183). -/
def resultDone : Byte := 0x5A
def resultRefused : Byte := 0x3C
def resultBadFrame : Byte := 0x0F

/-- The port enters ANSWER with the result byte and data bytes fixed; the byte that completed the frame is kept, and 0
bits went out while it came in (R168, R170, R171). -/
def answerWith (bytes : List Byte) (result : Byte) (data : List Byte) (s : State) : State :=
  (s.setService { frame := .answer, received := bytes, answer := result :: data, sent := 0 }).sendMiso 0

/-- The agent an argument byte names: 0–15. -/
def agentOfByte (b : Byte) : Option AgentIx := if h : b.toNat < 16 then some ⟨b.toNat, h⟩ else none

/-- The slot that two argument bytes name, most significant first: 0–1023. -/
def slotOfBytes (hi lo : Byte) : Option SlotIx :=
  if h : hi.toNat * 256 + lo.toNat < 1024 then some ⟨hi.toNat * 256 + lo.toNat, h⟩ else none

/-- STATUS_READ judged (R172). -/
def judgeStatusRead (s : State) : State := answerWith [0x01] resultDone (statusBytes s) s

/-- ERROR_READ judged (R172). -/
def judgeErrorRead (s : State) : State := answerWith [0x02] resultDone (errorBytes s.errors) s

/-- AGENT_READ judged (R172). -/
def judgeAgentRead (b : Byte) (s : State) : State :=
  match agentOfByte b with
  | none => answerWith [0x03, b] resultBadFrame [] s
  | some a => answerWith [0x03, b] resultDone (agentBytes s a) s

/-- The read of a slot by GRANT_READ: a non-FREE slot is compared with its code, a FREE one is not (R173). -/
def grantReadCheck (i : SlotIx) (s : State) : State := if (s.grant i).state = .free then s else integrityRead i s

/-- GRANT_READ judged: BAD_FRAME before REFUSED (R169, R173). An integrity error may stop the device (R162). -/
def judgeGrantRead (hi lo : Byte) (s : State) : State :=
  match slotOfBytes hi lo with
  | none => answerWith [0x04, hi, lo] resultBadFrame [] s
  | some i =>
    if s.freezeLevel.val = 2 then answerWith [0x04, hi, lo] resultRefused [] s
    else
      let read := grantReadCheck i s
      stopProcessor (answerWith [0x04, hi, lo] resultDone (grantBytes read i) read)

/-- HOLD or UNHOLD judged: the hold takes the value, and the answer reports state and hold as they stood before (R174). -/
def judgeHold (opcode : Byte) (value : Bool) (b : Byte) (s : State) : State :=
  match agentOfByte b with
  | none => answerWith [opcode, b] resultBadFrame [] s
  | some a =>
    answerWith [opcode, b] resultDone [holdByte s.agents[a]] (s.setAgent a { s.agents[a] with hold := value })

/-- A frame whose opcode names no transaction is judged (R169). -/
def judgeBadFrame (opcode : Byte) (s : State) : State := answerWith [opcode] resultBadFrame [] s

/-! ## Full bytes -/

/-- A byte that does not complete a frame is kept (R168). -/
def keepByte (b : Byte) (s : State) : State :=
  (s.setService { s.service with received := s.service.received ++ [b] }).sendMiso 0

/-- A full byte received in COMMAND: kept, or, if it completes what the transaction needs, judged (R168, R169). -/
def commandByte (b : Byte) (s : State) : State :=
  match s.service.received with
  | [] =>
    match b.toNat with
    | 0x01 => judgeStatusRead s
    | 0x02 => judgeErrorRead s
    | 0x03 | 0x04 | 0x05 | 0x06 => keepByte b s
    | _ => judgeBadFrame b s
  | [op] =>
    match op.toNat with
    | 0x03 => judgeAgentRead b s
    | 0x05 => judgeHold 0x05 true b s
    | 0x06 => judgeHold 0x06 false b s
    | _ => keepByte b s
  | _ :: hi :: _ => judgeGrantRead hi b s

/-- A full byte received in ANSWER: it is ignored and the next answer byte is sent, 0 bits after the last (R168,
R171). -/
def answerByte (s : State) : State :=
  match s.service.answer[s.service.sent]? with
  | none => s.sendMiso 0
  | some b => (s.setService { s.service with sent := s.service.sent + 1 }).sendMiso b

/-- A full byte, by the frame state (R168). -/
def receiveByte (b : Byte) (s : State) : State :=
  match s.service.frame with
  | .idle => s
  | .command => commandByte b s
  | .answer => answerByte s
  | .ignoring => s.sendMiso 0

/-- FULL_BYTE_RECEIVED (R168). A byte that completes a frame is judged here as by the row of its transaction. -/
def execFullByteReceived (b : Byte) (s : State) : Host.Outcome State Fault Refusal := happening (receiveByte b) s

/-! ## The transactions, each as the happening of its completing byte -/

/-- The completing byte of a frame arrives: the port is in COMMAND with the given bytes received (R168). Otherwise the
happening does not occur (log entry 6). -/
def judgedAfter (received : List Byte) (judge : State → State) (s : State) : State :=
  if s.service.frame = .command ∧ s.service.received = received then judge s else s

/-- STATUS_READ: its opcode byte arrives first in a frame (R169). -/
def execStatusRead (s : State) : Host.Outcome State Fault Refusal := happening (judgedAfter [] judgeStatusRead) s

/-- ERROR_READ: its opcode byte arrives first in a frame (R169). -/
def execErrorRead (s : State) : Host.Outcome State Fault Refusal := happening (judgedAfter [] judgeErrorRead) s

/-- AGENT_READ: its agent byte arrives after its opcode (R169). -/
def execAgentRead (b : Byte) (s : State) : Host.Outcome State Fault Refusal :=
  happening (judgedAfter [0x03] (judgeAgentRead b)) s

/-- The high index byte of a GRANT_READ frame that waits for its low one. -/
def grantReadHigh (s : State) : Option Byte :=
  match s.service.frame, s.service.received with
  | .command, [op, hi] => if op = 0x04 then some hi else none
  | _, _ => none

/-- GRANT_READ at its second argument byte (R169, R173). -/
def grantRead (lo : Byte) (s : State) : State :=
  match grantReadHigh s with
  | none => s
  | some hi => judgeGrantRead hi lo s

/-- GRANT_READ: its low index byte arrives after its opcode and its high index byte (R169, R173). -/
def execGrantRead (lo : Byte) (s : State) : Host.Outcome State Fault Refusal := happening (grantRead lo) s

/-- HOLD: its agent byte arrives after its opcode (R174). -/
def execHold (b : Byte) (s : State) : Host.Outcome State Fault Refusal :=
  happening (judgedAfter [0x05] (judgeHold 0x05 true b)) s

/-- UNHOLD: its agent byte arrives after its opcode (R174). -/
def execUnhold (b : Byte) (s : State) : Host.Outcome State Fault Refusal :=
  happening (judgedAfter [0x06] (judgeHold 0x06 false b)) s

/-- An opcode byte that names no transaction (R183). -/
def namesNoTransaction (b : Byte) : Bool := b.toNat == 0 || decide (6 < b.toNat)

/-- BAD_FRAME: an opcode byte that names no transaction arrives first in a frame (R169). -/
def execBadFrame (opcode : Byte) (s : State) : Host.Outcome State Fault Refusal :=
  happening (if namesNoTransaction opcode then judgedAfter [] (judgeBadFrame opcode) else id) s

end Sys2Proof.Machine
end

