-- ==== Sys2Proof/Machine/Settings.lean ====
section
/-! DEFINITION. The commands on agents, exclusion ranges, the freeze level and the configuration, and the taking of a
record that names no command (chapters 4, 8 and 9). -/

namespace Sys2Proof.Machine

/-- A command done: OK, with no handle and no result. -/
def done (s : State) : Verdict × State := (.completes .ok none .absent, s)

/-- The freeze level protects the settings: it is 1 or 2 (R152). -/
def State.protects (s : State) : Bool := decide (s.freezeLevel.val ≠ 0)

/-! ## Agents -/

/-- The record AGENT_SET writes: all four values, the hold kept (R136). The state written replaces QUARANTINED, also where the
same command turns auto-quarantine off (R135, R136, R139): a sentence of R138 says otherwise, and that the model follows R136
is the reading of log entry 26 (DEDUCED, unsafe). -/
def CommandRecord.agentRecord (r : CommandRecord) (old : Agent) : Agent where
  state := if r.agentStateCode = 0 then .disabled else .active
  hold := old.hold
  quota := r.agentQuota
  limit := r.agentLimit
  autoQuarantine := r.agentAuto

/-- The checks and effect of AGENT_SET (R136). -/
def agentSetBody (r : CommandRecord) (s : State) : Verdict × State :=
  if r.agentSetBad then refuse .malformed s
  else if s.protects then refuse .isProtected s
  else done (s.setAgent r.agent (r.agentRecord s.agents[r.agent]))

/-- AGENT_SET (R136). -/
def execAgentSet (s : State) : Host.Outcome State Fault Refusal :=
  happening (takeCommand (some .agentSet) agentSetBody) s

/-- An agent moves from one state to another, or the command completes NOT_LIVE (R137). -/
def moveAgent (source target : AgentState) (r : CommandRecord) (s : State) : Verdict × State :=
  if s.agents[r.agent].state = source then done (s.setAgent r.agent { s.agents[r.agent] with state := target })
  else refuse .notLive s

/-- QUARANTINE (R137). -/
def execQuarantine (s : State) : Host.Outcome State Fault Refusal :=
  happening (takeCommand (some .quarantine) (moveAgent .active .quarantined)) s

/-- RELEASE (R137). -/
def execRelease (s : State) : Host.Outcome State Fault Refusal :=
  happening (takeCommand (some .release) (moveAgent .quarantined .active)) s

/-! ## Exclusion ranges -/

/-- The non-FREE slot with the lowest index whose stored window overlaps the granules given (R149). -/
def State.overlapping (s : State) (base length : Nat) : Option SlotIx :=
  s.nonFree.find? (fun i => windowsOverlap (s.grant i).base.toNat (s.grant i).length base length)

/-- Writes an exclusion range. -/
def State.setRange (s : State) (x : RangeIx) (v : ExclusionRange) : State := { s with ranges := s.ranges.set x v }

/-- Check 4 and the effect of an enabling EXCLUDE_SET, after its scan (R149). -/
def enableRange (r : CommandRecord) (s : State) : Verdict × State :=
  match s.overlapping r.base.toNat r.length with
  | some i => (.completes .conflict none (.conflicting (mkHandle i (s.grant i).generation)), s)
  | none => done (s.setRange r.range { enabled := true, base := r.base, length := r.length })

/-- The checks and effect of EXCLUDE_SET (R148, R149). -/
def excludeSetBody (r : CommandRecord) (s : State) : Verdict × State :=
  if r.excludeSetBad then refuse .malformed s
  else if s.protects then refuse .isProtected s
  else if r.enable then
    if granules < r.base.toNat + r.length then refuse .badRange s else enableRange r (integrityScan s)
  else done (s.setRange r.range { enabled := false, base := 0, length := 0 })

/-- EXCLUDE_SET (R148). -/
def execExcludeSet (s : State) : Host.Outcome State Fault Refusal :=
  happening (takeCommand (some .excludeSet) excludeSetBody) s

/-! ## The freeze level and the configuration -/

/-- The checks and effect of FREEZE (R151). -/
def freezeBody (r : CommandRecord) (s : State) : Verdict × State :=
  if r.freezeBad then refuse .malformed s
  else if r.level < s.freezeLevel.val then refuse .isProtected s
  else done { s with freezeLevel := Fin.ofNat 3 r.level }

/-- FREEZE (R151). -/
def execFreeze (s : State) : Host.Outcome State Fault Refusal :=
  happening (takeCommand (some .freeze) freezeBody) s

/-- The configuration CONFIGURE writes (R153). -/
def CommandRecord.deviceConfig (r : CommandRecord) : DeviceConfig where
  drainTimeout := r.timeout
  integrity := severityOfBit (r.c5.getLsbD 3)
  stray := severityOfBit (r.c5.getLsbD 4)
  abandon := severityOfBit (r.c5.getLsbD 5)

/-- The checks and effect of CONFIGURE (R154, R120). -/
def configureBody (r : CommandRecord) (s : State) : Verdict × State :=
  if r.configureBad then refuse .malformed s
  else if s.protects then refuse .isProtected s
  else done { s with clock := { s.clock with pending := some r.period }, config := r.deviceConfig }

/-- CONFIGURE (R154). -/
def execConfigure (s : State) : Host.Outcome State Fault Refusal :=
  happening (takeCommand (some .configure) configureBody) s

/-! ## A record that names no command -/

/-- UNKNOWN_KIND_CODE: the general checks complete the record MALFORMED (R69), so no body follows them. -/
def execUnknownKindCode (s : State) : Host.Outcome State Fault Refusal :=
  happening (takeCommand none (fun _ s => refuse .malformed s)) s

end Sys2Proof.Machine
end

