-- ==== Sys2Proof/Config.lean ====
section
/-! DEFINITION. The open values of the spec: constants with no body, so that nothing can be proved of what they are. -/

namespace Sys2Proof.Config

/-- DESIGN CHOICE (log entry 3). A byte of read data that the memory controller did not drive: R46 lays down that a
completion carries as many bytes as the entry's length, and states no byte where it carries fewer. The argument is the
state's count of free values drawn. -/
opaque undrivenByte : Nat → Byte

/-- DESIGN CHOICE (log entry 4). The offset of a MEMORY fault where the entry's physical address minus the stored base
times 256 (R48) is no value of the 32-bit offset field, because the stored base was damaged after the take. -/
opaque unrepresentableOffset : Nat → BitVec 32

end Sys2Proof.Config
end

