-- ==== Sys2Proof/Machine/Tracker.lean ====
section
/-! DEFINITION. Memory completions (chapter 3). -/

namespace Sys2Proof.Machine

/-- The read data taken for an entry of length `n`: as many bytes as the entry's length (R46). Bytes the completion
does not carry are free values (log entry 3). -/
def readBytes (n draws : Nat) (data : List Byte) : List Byte :=
  data.take n ++ (List.range (n - data.length)).map (fun k => Config.undrivenByte (draws + k))

/-- The OK response of an entry: read data for a READ, none for a WRITE (R47). -/
def answerOk (e : Entry) (data : List Byte) (s : State) : State :=
  match e.kind with
  | .read =>
    { s.respond { lane := e.agent, tag := e.tag, outcome := .ok (some (readBytes e.length s.freeDraws data)) } with
      freeDraws := s.freeDraws + (e.length - data.length) }
  | .write => s.respond { lane := e.agent, tag := e.tag, outcome := .ok none }

/-- The entry's physical address minus base × 256 is a value of the 32-bit offset field. -/
def offsetRepresentable (e : Entry) (base : BitVec 32) : Bool :=
  decide (base.toNat * 256 ≤ e.address.toNat) && decide (e.address.toNat < base.toNat * 256 + granules)

/-- The offset of a MEMORY fault: physical address minus stored base × 256 (R48), or a free value where that is no
value of the field (log entry 4). -/
def memoryFaultOffset (e : Entry) (base : BitVec 32) (draws : Nat) : BitVec 32 :=
  if offsetRepresentable e base then BitVec.ofNat 32 (e.address.toNat - base.toNat * 256)
  else Config.unrepresentableOffset draws

/-- The fault of kind MEMORY that an entry's failed access offers (R48). -/
def memoryFault (e : Entry) (s : State) : HeldFault where
  kind := .memory
  handle := mkHandle e.grant (s.grant e.grant).generation
  offset := memoryFaultOffset e (s.grant e.grant).base s.freeDraws
  length := e.length
  accessKind := accessKindOf e.kind
  tag := e.tag
  more := false

/-- The MEMORY_ERROR response of an entry and the fault it offers (R48). -/
def answerError (e : Entry) (s : State) : State :=
  offerFault e.agent (memoryFault e s)
    { s.respond { lane := e.agent, tag := e.tag, outcome := .memoryError } with
      freeDraws := if offsetRepresentable e (s.grant e.grant).base then s.freeDraws else s.freeDraws + 1 }

/-- The freeing rule for a slot whose in-flight count fell: applied if the slot is DRAINING (R47). -/
def settleIfDraining (i : SlotIx) (s : State) : State := if (s.grant i).state = .draining then settle s else s

/-- A completion for an ISSUED entry (R47, R48). -/
def completeIssued (k : EntryIx) (e : Entry) (status : MemStatus) (data : List Byte) (s : State) : State :=
  let answered := match status with
    | .ok => answerOk e data s
    | .error => answerError e s
  settleIfDraining e.grant (answered.setEntry k Entry.emptied)

/-- A memory completion, by the state of the entry its tag names (R46–R50). -/
def memoryCompletion (k : EntryIx) (status : MemStatus) (data : List Byte) (s : State) : State :=
  match s.tracker[k].state with
  | .issued => completeIssued k s.tracker[k] status data s
  | .abandoned => s.setEntry k Entry.emptied
  | .empty => stopProcessor (recordError .stray k.val s)

/-- MEMORY_COMPLETION (R46). -/
def execMemoryCompletion (k : EntryIx) (status : MemStatus) (data : List Byte) (s : State) :
    Host.Outcome State Fault Refusal :=
  happening (memoryCompletion k status data) s

end Sys2Proof.Machine
end

