-- ==== Sys2Proof/Machine/Dispatch.lean ====
section
/-! DEFINITION. The dispatch of a command to its meaning: one arm for each constructor of Instr. -/

namespace Sys2Proof.Machine

def exec (i : Instr) (s : State) : Host.Outcome State Fault Refusal :=
  match i with
  | .powerOnReset => Sys2Proof.Machine.execPowerOnReset s
  | .hardwareReset => Sys2Proof.Machine.execHardwareReset s
  | .softReset => Sys2Proof.Machine.execSoftReset s
  | .requestPresented lane request => Sys2Proof.Machine.execRequestPresented lane request s
  | .accessTake => Sys2Proof.Machine.execAccessTake s
  | .memoryCompletion tag status data => Sys2Proof.Machine.execMemoryCompletion tag status data s
  | .freeing slot => Sys2Proof.Machine.execFreeing slot s
  | .retireCompletion op => Sys2Proof.Machine.execRetireCompletion op s
  | .barrierCompletion => Sys2Proof.Machine.execBarrierCompletion s
  | .leaseTick => Sys2Proof.Machine.execLeaseTick s
  | .lapse slot => Sys2Proof.Machine.execLapse slot s
  | .owedNoticePosted => Sys2Proof.Machine.execOwedNoticePosted s
  | .drainTimeout op => Sys2Proof.Machine.execDrainTimeout op s
  | .push value => Sys2Proof.Machine.execPush value s
  | .pop value => Sys2Proof.Machine.execPop value s
  | .resume => Sys2Proof.Machine.execResume s
  | .discard => Sys2Proof.Machine.execDiscard s
  | .pushRefusedClear => Sys2Proof.Machine.execPushRefusedClear s
  | .discardRemoval => Sys2Proof.Machine.execDiscardRemoval s
  | .errorClear value => Sys2Proof.Machine.execErrorClear value s
  | .faultAck value => Sys2Proof.Machine.execFaultAck value s
  | .faultSelect value => Sys2Proof.Machine.execFaultSelect value s
  | .intEnable value => Sys2Proof.Machine.execIntEnable value s
  | .registerWrite reg value => Sys2Proof.Machine.execRegisterWrite reg value s
  | .create => Sys2Proof.Machine.execCreate s
  | .derive => Sys2Proof.Machine.execDerive s
  | .modify => Sys2Proof.Machine.execModify s
  | .query => Sys2Proof.Machine.execQuery s
  | .revoke => Sys2Proof.Machine.execRevoke s
  | .revokeAgent => Sys2Proof.Machine.execRevokeAgent s
  | .purge => Sys2Proof.Machine.execPurge s
  | .barrier => Sys2Proof.Machine.execBarrier s
  | .agentSet => Sys2Proof.Machine.execAgentSet s
  | .quarantine => Sys2Proof.Machine.execQuarantine s
  | .release => Sys2Proof.Machine.execRelease s
  | .excludeSet => Sys2Proof.Machine.execExcludeSet s
  | .freeze => Sys2Proof.Machine.execFreeze s
  | .configure => Sys2Proof.Machine.execConfigure s
  | .unknownKindCode => Sys2Proof.Machine.execUnknownKindCode s
  | .statusRead => Sys2Proof.Machine.execStatusRead s
  | .errorRead => Sys2Proof.Machine.execErrorRead s
  | .agentRead agent => Sys2Proof.Machine.execAgentRead agent s
  | .grantRead indexLow => Sys2Proof.Machine.execGrantRead indexLow s
  | .hold agent => Sys2Proof.Machine.execHold agent s
  | .unhold agent => Sys2Proof.Machine.execUnhold agent s
  | .badFrame opcode => Sys2Proof.Machine.execBadFrame opcode s
  | .resetRelease => Sys2Proof.Machine.execResetRelease s
  | .csAsserted => Sys2Proof.Machine.execCsAsserted s
  | .csDeasserted => Sys2Proof.Machine.execCsDeasserted s
  | .fullByteReceived byte => Sys2Proof.Machine.execFullByteReceived byte s

end Sys2Proof.Machine
end

