-- ==== Sys2Proof/Safety.lean ====
section
/-! DEFINITION. What counts as a sound state, and the terms in which claims speak of a command: when a take is due, how a
command that completes leaves its take, which check is the first to fail, and the invariants that every command keeps. -/

namespace Sys2Proof.Machine

/-! ## Takes of the command processor (R66–R70) -/

/-- A take of the head record is due: the device is out of reset and RUNNING, the processor is IDLE, no notice is owed,
a response place is unreserved, and a revoking head finds a FREE retire slot (R66, R67). -/
structure TakeReady (s : State) (r : CommandRecord) (rest : List CommandRecord) : Prop where
  outOfReset : s.inReset = false
  running    : s.runState = .running
  idle       : s.processor.state = .idle
  queued     : s.commandQueue = r :: rest
  noneOwed   : s.owesNotice = false
  place      : s.responseQueue.length + s.reserved < 32
  retireSlot : r.revoking = true → s.openCount < 8

/-- A record of the given kind that passes the general checks of R69. -/
structure Passes (r : CommandRecord) (k : CommandKind) : Prop where
  kind    : r.kind = some k
  general : r.generallyMalformed = false

/-- The take command of a kind; the records whose kind code names no command are taken by UNKNOWN_KIND_CODE. -/
def takeOf : Option CommandKind → Instr
  | none => .unknownKindCode
  | some .create => .create
  | some .derive => .derive
  | some .modify => .modify
  | some .query => .query
  | some .revoke => .revoke
  | some .revokeAgent => .revokeAgent
  | some .purge => .purge
  | some .barrier => .barrier
  | some .agentSet => .agentSet
  | some .quarantine => .quarantine
  | some .release => .release
  | some .excludeSet => .excludeSet
  | some .freeze => .freeze
  | some .configure => .configure

/-- The completion of a record: its tag and kind code as pushed, with a status, a handle and a result (R61). -/
def completionOf (r : CommandRecord) (st : Status) (h : Option Handle) (res : Result) : ResponseRecord :=
  .completion { tag := r.tag, status := st, kind := r.kindCode, handle := h, result := res }

/-- A command that completes without halting leaves the state it made with its record gone from the queue and its
completion posted, and the take test made (R68). -/
def completedTake (u : State) (rest : List CommandRecord) (c : ResponseRecord) : State :=
  takeTest { u with commandQueue := rest, responseQueue := u.responseQueue ++ [c] }

/-- A command that completes MALFORMED or PROTECTED leaves the processor HALTED (R70). -/
def haltedTake (u : State) (rest : List CommandRecord) (c : ResponseRecord) : State :=
  { u with
    commandQueue := rest
    responseQueue := u.responseQueue ++ [c]
    processor := { u.processor with state := .halted } }

/-- A completed command by its status: HALTED, or the take test (R70). -/
def endedTake (u : State) (rest : List CommandRecord) (r : CommandRecord) (st : Status) (h : Option Handle) : State :=
  match st with
  | .malformed | .isProtected => haltedTake u rest (completionOf r st h .absent)
  | .ok | .drainedAbandoned | .noFreeSlot | .quota | .excluded | .badRange | .notLive | .hasDescendants | .depth
  | .notDelegable | .notSubset | .damaged | .conflict | .discarded =>
    completedTake u rest (completionOf r st h .absent)

/-- The first of some ordered checks that fails. -/
def firstFailing {α : Type} (checks : List (α × Bool)) : Option α := (checks.find? Prod.snd).map Prod.fst

/-- The bits of the six words that a kind uses, the tag and the kind code among them (R69, R181). -/
def usedBits : CommandKind → CommandRecord
  | .create => ⟨0x007FFFFF, 0xFFFF0000, 0xFFFFFFFF, 0xFFFFFFFF, 0xFFFFFFFF, 0⟩
  | .derive => ⟨0x007FFFFF, 0xFFFFFFFF, 0xFFFFFFFF, 0xFFFFFFFF, 0xFFFFFFFF, 0⟩
  | .modify => ⟨0xFF70FFFF, 0xFFFFFFFF, 0, 0xFFFFFFFF, 0xFFFFFFFF, 0⟩
  | .query | .revoke => ⟨0x0000FFFF, 0x0000FFFF, 0, 0, 0, 0⟩
  | .revokeAgent | .quarantine | .release => ⟨0x000FFFFF, 0, 0, 0, 0, 0⟩
  | .purge | .barrier => ⟨0x0000FFFF, 0, 0, 0, 0, 0⟩
  | .agentSet => ⟨0x000FFFFF, 0, 0, 0, 0, 0xFFFFFFFF⟩
  | .excludeSet => ⟨0x0000FFFF, 0, 0xFFFFFFFF, 0xFFFFFFFF, 0, 0xFFFFFFFF⟩
  | .freeze | .configure => ⟨0x0000FFFF, 0, 0, 0, 0, 0xFFFFFFFF⟩

/-- Some bit of a record lies outside a mask. -/
def CommandRecord.outside (r mask : CommandRecord) : Bool :=
  r.c0 &&& ~~~mask.c0 != 0 || r.c1 &&& ~~~mask.c1 != 0 || r.c2 &&& ~~~mask.c2 != 0 || r.c3 &&& ~~~mask.c3 != 0
    || r.c4 &&& ~~~mask.c4 != 0 || r.c5 &&& ~~~mask.c5 != 0

/-! ### The ordered checks of the commands, each with its status and whether it fails -/

/-- CREATE (R82, R83). -/
def createChecks (s : State) (r : CommandRecord) : List (Status × Bool) :=
  [(.malformed, decide (r.rights = ⟨false, false, false⟩ ∨ r.c3.toNat = 0 ∨ 2 ^ 24 < r.c3.toNat ∨ 1048575 < r.c4.toNat)),
   (.badRange, decide (2 ^ 32 < r.c2.toNat + r.c3.toNat)),
   (.excluded, s.ranges.toList.any fun x => decide (x.enabled = true ∧ x.base.toNat < r.c2.toNat + r.c3.toNat
     ∧ r.c2.toNat < x.base.toNat + x.length)),
   (.quota, decide (s.agents[r.agent].quota ≤ s.grantCount r.agent)),
   (.noFreeSlot, decide (s.freeList = []))]

/-- DERIVE (R82, R85). Check 3 fails where the damaged flag is set or a mismatch is found. -/
def deriveChecks (s : State) (r : CommandRecord) : List (Status × Bool) :=
  let p := s.grant (handleSlot r.handle)
  [(.malformed, decide (r.rights = ⟨false, false, false⟩ ∨ r.c3.toNat = 0 ∨ 2 ^ 24 < r.c3.toNat ∨ 1048575 < r.c4.toNat)),
   (.notLive, decide (p.state ≠ .live ∨ p.generation ≠ handleGeneration r.handle)),
   (.damaged, p.damaged || !p.codeMatches),
   (.notDelegable, !p.rights.delegable),
   (.depth, decide (3 ≤ p.depth)),
   (.notSubset, (r.rights.read && !p.rights.read) || (r.rights.write && !p.rights.write)),
   (.badRange, decide (p.length < r.c2.toNat + r.c3.toNat)),
   (.quota, decide (s.agents[r.agent].quota ≤ s.grantCount r.agent)),
   (.noFreeSlot, decide (s.freeList = []))]

/-- MODIFY (R90–R94). The option flags are C0 [31:24]: SET_RIGHTS, SET_LENGTH, SET_LEASE, SET_LABEL, SUSPEND and RESUME
from bit 24 up. -/
def modifyChecks (s : State) (r : CommandRecord) : List (Status × Bool) :=
  let g := s.grant (handleSlot r.handle)
  let opt (n : Nat) : Bool := r.c0.getLsbD (24 + n)
  [(.malformed, decide (r.c0.toNat / 2 ^ 24 = 0) || opt 6 || opt 7 || (opt 4 && opt 5)
     || (opt 0 && decide (r.rights = ⟨false, false, false⟩)) || (!opt 0 && decide (r.rights ≠ ⟨false, false, false⟩))
     || (opt 1 && decide (r.c3.toNat = 0 ∨ 2 ^ 24 < r.c3.toNat)) || (!opt 1 && decide (r.c3 ≠ 0))
     || (opt 2 && decide (1048575 < r.c4.toNat)) || (!opt 2 && decide (r.c4 ≠ 0))
     || (!opt 3 && decide (r.label ≠ 0))),
   (.notLive, decide (g.generation ≠ handleGeneration r.handle ∨ ¬ (g.state = .live ∨ g.state = .suspended))
     || (opt 4 && decide (g.state ≠ .live)) || (opt 5 && decide (g.state ≠ .suspended))),
   (.damaged, (g.damaged || !g.codeMatches) && (opt 0 || opt 1 || opt 2 || opt 3 || opt 5)),
   (.hasDescendants, decide (g.children ≠ []) && ((opt 0 && decide (r.rights ≠ g.rights))
     || (opt 1 && decide (r.c3.toNat ≠ g.length)))),
   (.notSubset, opt 0 && ((r.rights.read && !g.rights.read) || (r.rights.write && !g.rights.write)
     || (r.rights.delegable && !g.rights.delegable))),
   (.badRange, opt 1 && decide (g.length < r.c3.toNat))]

/-- AGENT_SET (R136, R181). -/
def agentSetChecks (s : State) (r : CommandRecord) : List (Status × Bool) :=
  [(.malformed, decide (2 ≤ r.c5.toNat % 4 ∨ 1024 < r.c5.toNat / 4 % 2048 ∨ r.c5.toNat / 2 ^ 13 % 16 = 0
     ∨ 8 < r.c5.toNat / 2 ^ 13 % 16 ∨ r.c5.toNat / 2 ^ 18 ≠ 0)),
   (.isProtected, decide (s.freezeLevel ≠ 0))]

/-- The first three checks of EXCLUDE_SET (R148, R181). -/
def excludeSetChecks (s : State) (r : CommandRecord) : List (Status × Bool) :=
  [(.malformed, decide (3 < r.c5.toNat % 8 ∨ r.c5.toNat / 8 % 32 ≠ 0 ∨ r.c5.toNat / 2 ^ 9 ≠ 0)
     || (r.c5.getLsbD 8 && decide (r.c3.toNat = 0 ∨ 2 ^ 24 < r.c3.toNat))
     || (!r.c5.getLsbD 8 && decide (r.c2 ≠ 0 ∨ r.c3 ≠ 0))),
   (.isProtected, decide (s.freezeLevel ≠ 0)),
   (.badRange, r.c5.getLsbD 8 && decide (2 ^ 32 < r.c2.toNat + r.c3.toNat))]

/-- FREEZE (R151). -/
def freezeChecks (s : State) (r : CommandRecord) : List (Status × Bool) :=
  [(.malformed, decide (2 < r.c5.toNat)), (.isProtected, decide (r.c5.toNat < s.freezeLevel.val))]

/-- CONFIGURE (R154, R181). -/
def configureChecks (s : State) (r : CommandRecord) : List (Status × Bool) :=
  [(.malformed, decide (3 < r.c5.toNat % 8 ∨ r.c5.toNat / 2 ^ 6 % 1024 ≠ 0)),
   (.isProtected, decide (s.freezeLevel ≠ 0))]

/-! ### Revoking commands -/

/-- A revoking command opens the lowest FREE retire slot over the non-FREE slots its rule makes members, moves those in
use to DRAINING, and stays open (R101): `u` is the state after its integrity comparisons, and `target` and `isMember` are
what its rule gives. -/
def OpensOperation (c : Instr) (s u : State) (r : CommandRecord) (rest : List CommandRecord) (kind : RetireKind)
    (target : Option Handle) (isMember : SlotIx → Prop) : Prop :=
  ∃ (k : RetireIx) (members : List SlotIx) (t : State),
    s.retire[k] = none ∧ (∀ j : RetireIx, j < k → s.retire[j] ≠ none) ∧
    (∀ i, i ∈ members ↔ (s.grant i).state ≠ .free ∧ isMember i) ∧
    exec c s = .next t ∧
    (∀ i, t.grant i = if i ∈ members ∧ (s.grant i).state.inUse = true then { u.grant i with state := .draining }
      else u.grant i) ∧
    let opened : State := { u with
      grants := t.grants
      commandQueue := rest
      reserved := s.reserved + 1
      retire := s.retire.set k (some { kind := kind, tag := r.tag, target := target, members := members, abandoned := false
                                       drainRemaining := if s.config.drainTimeout = 0 then none
                                         else some s.config.drainTimeout }) }
    t = stopProcessor (if kind = .purge then { opened with processor := { s.processor with state := .purging } }
      else takeTest opened)

/-- The completion record that an operation posts (R109). -/
def operationCompletion (op : RetireOp) : ResponseRecord :=
  .completion
    { tag := op.tag
      status := if op.abandoned then .drainedAbandoned else .ok
      kind := match op.kind with
        | .revoke => 0x05
        | .revokeAgent => 0x06
        | .purge => 0x07
      handle := op.target
      result := .absent }

/-- The open operations whose member sets are empty, in ascending retire-slot order. -/
def State.emptied (s : State) : List RetireOp :=
  s.retire.toList.filterMap fun slot => slot.filter fun op => decide (op.members = [])

/-- The completions of some emptied operations, posted in the order given, but for the processor: each uses its reservation,
every slot whose member set is empty becomes FREE, and a PURGE among them disables the ranges and sets the freeze level to 0
(R109, R111). That a PURGE keeps the agent records and the configuration is the reading of log entry 23. -/
def retired (s : State) (done : List RetireOp) : State :=
  let purged : Bool := done.any fun op => decide (op.kind = .purge)
  { s with
    ranges := if purged then Vector.replicate 4 ⟨false, 0, 0⟩ else s.ranges
    freezeLevel := if purged then 0 else s.freezeLevel
    responseQueue := s.responseQueue ++ done.map operationCompletion
    reserved := s.reserved - done.length
    retire := s.retire.map fun slot => slot.filter fun op => decide (op.members ≠ []) }

/-- The take of a revoking command, to its end (R101, R107): it opens the lowest FREE retire slot over the non-FREE slots its
rule makes members, moves those in use to DRAINING, and if it moved any frees all that is then eligible. Operations that
this empties complete, in ascending retire-slot order and its own last (log entry 14). A PURGE that stays open leaves the
processor PURGING; otherwise the take test is made. `u` is the state after the command's integrity comparisons. -/
def RevokesAtTheTake (c : Instr) (s u : State) (r : CommandRecord) (rest : List CommandRecord) (kind : RetireKind)
    (target : Option Handle) (isMember : SlotIx → Bool) : Prop :=
  let members : List SlotIx := (List.finRange 1024).filter fun i => decide ((s.grant i).state ≠ .free) && isMember i
  let moved : Bool := members.any fun i => (s.grant i).state.inUse
  ∃ (k : RetireIx) (v : State) (own : RetireOp),
    s.retire[k] = none ∧ (∀ j : RetireIx, j < k → s.retire[j] ≠ none) ∧
    v.grants.wf = true ∧
    (∀ i, v.grant i = if i ∈ members ∧ (s.grant i).state.inUse = true then { u.grant i with state := .draining }
      else u.grant i) ∧
    v = { u with
      grants := v.grants
      commandQueue := rest
      reserved := s.reserved + 1
      retire := s.retire.set k (some { kind := kind, tag := r.tag, target := target, members := members, abandoned := false
                                       drainRemaining := if s.config.drainTimeout = 0 then none
                                         else some s.config.drainTimeout }) } ∧
    let w : State := if moved then freeAll v else v
    let others : List RetireOp := { w with retire := w.retire.set k none }.emptied
    let ended : State := retired w (if own.members = [] then others ++ [own] else others)
    w.retire[k] = some own ∧
    exec c s = .next (stopProcessor (if kind = .purge ∧ own.members ≠ []
      then { ended with processor := { s.processor with state := .purging } } else takeTest ended))

/-- Something holds every slot that a withdrawal of the members leaves DRAINING, so that the withdrawal frees none; and no
open operation has an empty member set (R8, R100). -/
structure NothingFreesAt (s : State) (isMember : SlotIx → Prop) : Prop where
  held      : ∀ i, isMember i → (s.grant i).state ≠ .free →
    0 < s.inFlight i ∨ (s.grant i).children ≠ [] ∨ (s.grant i).noticeOwed ≠ none
  none      : ∀ i, s.eligible i = false
  nonempty  : ∀ (k : RetireIx) op, s.retire[k] = some op → op.members ≠ []

/-! ## Accesses -/

/-- How far a lane stands from the arbiter's pointer: 0 for the lane after it, 15 for the pointer's own lane (R28). -/
def laneDistance (pointer a : AgentIx) : Nat := (a.val + 15 - pointer.val) % 16

/-- The two conditions of R26 for a lane that is WAITING. -/
def TakeableBy (s : State) (a : AgentIx) : Prop :=
  s.lanes[a] ≠ none ∧
    ((s.runState = .stopped ∨ s.agents[a].state ≠ .active ∨ s.agents[a].hold = true) ∨
      (s.outstanding a < s.agents[a].limit ∧ ∃ k : EntryIx, s.tracker[k].state = .empty))

/-- The arbiter's next lane is this one, and it holds this request (R28). -/
structure NextTake (s : State) (a : AgentIx) (q : Request) : Prop where
  outOfReset : s.inReset = false
  held       : s.lanes[a] = some q
  takeable   : TakeableBy s a
  first      : ∀ b, laneDistance s.lanePointer b < laneDistance s.lanePointer a → ¬ TakeableBy s b

/-- The eleven checks in their order, each with its fault kind and whether it fails in the state (R29). Check 6 fails
where the damaged flag is set or a mismatch is found. -/
def elevenChecks (s : State) (a : AgentIx) (q : Request) : List (FaultKind × Bool) :=
  let g := s.grant (handleSlot q.handle)
  [(.stopped, decide (s.runState = .stopped)),
   (.agentBlocked, decide (s.agents[a].state ≠ .active) || s.agents[a].hold),
   (.malformedRequest, decide (q.length = 0) || decide (4096 < q.length.toNat) || decide (q.kind = .invalid2)
     || decide (q.kind = .invalid3)),
   (.duplicateTag, s.tracker.toList.any fun e => decide (e.state = .issued ∧ e.agent = a ∧ e.tag = q.tag)),
   (.stale, decide (g.state = .free ∨ g.generation ≠ handleGeneration q.handle)),
   (.damaged, g.damaged || !g.codeMatches),
   (.revoked, decide (g.state = .draining)),
   (.suspended, decide (g.state = .suspended)
     || (s.ancestors (handleSlot q.handle)).any fun p => decide ((s.grant p).state = .suspended)),
   (.notGrantee, decide (g.grantee ≠ a)),
   (.rights, !(match q.kind with
     | .read => g.rights.read
     | .write => g.rights.write
     | .invalid2 | .invalid3 => false)),
   (.bounds, decide (g.length * 256 < q.offset.toNat + q.length.toNat))]

/-- The conditions under which alone an access reaches the memory port (R36), with the memory request it makes. -/
structure AdmittedAccess (s : State) (a : AgentIx) (q : Request) (m : MemRequest) : Prop where
  running  : s.runState = .running
  admitted : s.agents[a].state = .active ∧ s.agents[a].hold = false
  waiting  : s.lanes[a] = some q
  live     : (s.grant (handleSlot q.handle)).state = .live
  current  : (s.grant (handleSlot q.handle)).generation = handleGeneration q.handle
  unbroken : ∀ p ∈ s.ancestors (handleSlot q.handle), (s.grant p).state ≠ .suspended
  grantee  : (s.grant (handleSlot q.handle)).grantee = a
  allowed  : match m.kind with
    | .read => q.kind = .read ∧ (s.grant (handleSlot q.handle)).rights.read = true
    | .write => q.kind = .write ∧ (s.grant (handleSlot q.handle)).rights.write = true
  low      : (s.grant (handleSlot q.handle)).base.toNat * 256 ≤ m.address.toNat
  high     : m.address.toNat + m.length ≤
    ((s.grant (handleSlot q.handle)).base.toNat + (s.grant (handleSlot q.handle)).length) * 256

/-- The requester tags that an agent is still owed an answer for: those of its ISSUED entries, and that of the request
waiting in its lane (R25). -/
def State.owedTags (s : State) (a : AgentIx) : List (BitVec 4) :=
  (s.tracker.toList.filter fun e => decide (e.state = .issued ∧ e.agent = a)).map Entry.tag
    ++ s.lanes[a].toList.map Request.tag

/-! ## Owed notices -/

/-- The slots whose notice is owed, ascending. -/
def State.owedSlots (s : State) : List SlotIx :=
  (List.finRange 1024).filter fun i => decide ((s.grant i).noticeOwed ≠ none)

/-- Owed notices take the places given, one per place, lowest slot first: each joins the tail of the response queue with the
fields it was given at the lapse, its flag clears, and nothing else changes (R64, R65). The freeing rule comes after. -/
structure PostsOwed (places : Nat) (s u : State) : Prop where
  canonical : u.grants.wf = true
  grants    : ∀ i, u.grant i = if i ∈ s.owedSlots.take places then { s.grant i with noticeOwed := none } else s.grant i
  others    : u = { s with
    grants := u.grants
    responseQueue := s.responseQueue ++
      (s.owedSlots.take places).filterMap fun i => (s.grant i).noticeOwed.map ResponseRecord.notice }

/-! ## The stages of a tick (R121) -/

/-- Stage 1: the lease of every LIVE or SUSPENDED grant and every drain timer falls by 1, and nothing else changes (R112,
R122). -/
structure CountsDown (s u : State) : Prop where
  canonical : u.grants.wf = true
  grants    : ∀ i, u.grant i = if (s.grant i).state = .live ∨ (s.grant i).state = .suspended
    then { s.grant i with lease := (s.grant i).lease.map (· - 1) } else s.grant i
  others    : u = { s with
    grants := u.grants
    retire := s.retire.map (Option.map fun op => { op with drainRemaining := op.drainRemaining.map (· - 1) }) }

/-- The LIVE and SUSPENDED grants whose lease stands at 0, ascending: after stage 1, those that lapse in stage 2. -/
def State.leasesAtZero (s : State) : List SlotIx :=
  (List.finRange 1024).filter fun i =>
    decide (((s.grant i).state = .live ∨ (s.grant i).state = .suspended) ∧ (s.grant i).lease = some 0)

/-- The retire slots whose drain timer stands at 0, ascending: after stage 1, those that time out in stage 3. -/
def State.timersAtZero (s : State) : List RetireIx :=
  (List.finRange 8).filter fun k => (s.retire[k]).any fun op => decide (op.drainRemaining = some 0)

/-- The lapse of a grant leads from one state to the other: the grant's lease becomes absent; if it is LIVE or SUSPENDED,
it and every LIVE or SUSPENDED descendant enter DRAINING; a mismatch on an undamaged grant sets its damaged flag and is
recorded; and its notice, with the stored values and the number of descendants moved, is posted into an unreserved place
or owed by the grant (R6, R18, R123, R124, R125). -/
structure LapseOf (s : State) (i : SlotIx) (u : State) : Prop where
  canonical : u.grants.wf = true
  effect    :
    let g := s.grant i
    let moves (j : SlotIx) : Bool :=
      g.state.inUse && (decide (j = i) || (s.ancestors j).contains i) && (s.grant j).state.inUse
    let notice : Notice :=
      { handle := mkHandle i g.generation, label := g.ownerLabel, grantee := g.grantee
        moved := (List.finRange 1024).countP fun j => decide (j ≠ i) && moves j }
    let full : Bool := decide (32 ≤ s.responseQueue.length + s.reserved)
    let mismatch : Bool := !g.codeMatches && !g.damaged
    (∀ j, u.grant j =
      if j = i then { g with
        state := if moves i then .draining else g.state
        lease := none
        damaged := g.damaged || mismatch
        noticeOwed := if full then some notice else g.noticeOwed }
      else if moves j then { s.grant j with state := .draining }
      else s.grant j) ∧
    u = { s with
      grants := u.grants
      responseQueue := if full then s.responseQueue else s.responseQueue ++ [.notice notice]
      errors := if mismatch then s.errors.add .integrity i.val else s.errors
      runState := if mismatch ∧ s.config.integrity = .fatal then .stopped else s.runState }

/-- Stage 2: lapses taken one at a time, in the order given. -/
def LapsesInTurn : List SlotIx → State → State → Prop
  | [], s, u => u = s
  | i :: rest, s, u => ∃ v, LapseOf s i v ∧ LapsesInTurn rest v u

/-- An entry is ISSUED under a member of one of the operations in the retire slots given. -/
def State.reaches (s : State) (ks : List RetireIx) (e : Entry) : Bool :=
  decide (e.state = .issued) && ks.any fun k => (s.retire[k]).any fun op => decide (e.grant ∈ op.members)

/-- The drain timeout of an operation, but for the responses: the entries ISSUED under its members become ABANDONED, its
timer is spent, and if there is such an entry its abandoned flag is set and an ABANDON error is recorded (R52, R113). -/
def timeoutState (s : State) (k : RetireIx) (op : RetireOp) : State :=
  let under (e : Entry) : Bool := decide (e.state = .issued ∧ e.grant ∈ op.members)
  let hit : Bool := s.tracker.toList.any under
  { s with
    tracker := s.tracker.map fun e => if under e
      then { state := .abandoned, agent := 0, tag := 0, grant := 0, kind := e.kind, address := 0, length := e.length }
      else e
    retire := s.retire.set k (some { op with drainRemaining := none, abandoned := op.abandoned || hit })
    errors := if hit then s.errors.add .abandon k.val else s.errors
    runState := if hit ∧ s.config.abandon = .fatal then .stopped else s.runState }

/-- The drain timeouts of the operations in some retire slots, one at a time, in the order given (R114). -/
def timeoutsInTurn : List RetireIx → State → State
  | [], s => s
  | k :: rest, s =>
    match s.retire[k] with
    | none => timeoutsInTurn rest s
    | some op => timeoutsInTurn rest (timeoutState s k op)

/-- Stage 3: the drain timeouts in turn. Each entry they reach is answered ABANDONED with its requester's tag, in
ascending entry order over the whole stage, whichever operation reached it (R24, R52, R113). The order between lanes is the
model's choice (log entry 22). -/
def stageThree (s : State) : State :=
  { timeoutsInTurn s.timersAtZero s with
    out := { s.out with
      responses := s.out.responses ++ (s.tracker.toList.filter (s.reaches s.timersAtZero)).map
        fun e => { lane := e.agent, tag := e.tag, outcome := .abandoned } } }

/-- Stages 4 to 6 and the end of the tick: freeing and completions, the period code, the take test, and STOPPED in a
stopped device (R77, R120, R121). -/
def tickEnd (s : State) : State :=
  stopProcessor (takeTest { settle s with
    clock := { current := s.clock.pending.getD s.clock.current, pending := none, progress := 0 } })

/-! ## Invariants -/

/-- The grant table keeps its canonical form, FREE slots hold the fixed values of R1, and the free list holds each FREE
slot exactly once (R13). -/
structure FreeListSound (s : State) : Prop where
  canonical : s.grants.wf = true
  values    : ∀ i, (s.grant i).state = .free → s.grant i = freeRecord (s.grant i).generation
  nodup     : s.freeList.Nodup
  exact     : ∀ i, i ∈ s.freeList ↔ (s.grant i).state = .free

/-- The queues keep their bounds, and each open operation and a waiting BARRIER hold one reserved place (R59, R62). -/
structure QueuesSound (s : State) : Prop where
  commands : s.commandQueue.length ≤ 32
  places   : s.responseQueue.length + s.reserved ≤ 32
  reserved : s.reserved = s.openCount + (if s.processor.barrierTag.isSome then 1 else 0)
  barrier  : s.processor.barrierTag.isSome = true →
    s.processor.state = .barrierWait ∨ s.processor.state = .stopped
  waiting  : s.processor.state = .barrierWait → s.processor.barrierTag.isSome = true

/-- The processor is STOPPED exactly in a stopped device, holds a discard count exactly while DISCARDING, and is settled
by its take test (R66, R67, R72, R77). -/
structure ProcessorSound (s : State) : Prop where
  stopped    : s.processor.state = .stopped ↔ s.runState = .stopped
  discarding : s.processor.state = .discarding →
    0 < s.processor.discardCount ∧ s.processor.discardCount ≤ s.commandQueue.length
  otherwise  : s.processor.state ≠ .discarding → s.processor.discardCount = 0
  settled    : takeTest s = s

/-- Tracker entries hold the values of R42 for their state, and no ISSUED entry names a FREE slot (R4). -/
structure TrackerSound (s : State) : Prop where
  empty     : ∀ k : EntryIx, s.tracker[k].state = .empty → s.tracker[k] = Entry.emptied
  abandoned : ∀ k : EntryIx, s.tracker[k].state = .abandoned →
    s.tracker[k].agent = 0 ∧ s.tracker[k].tag = 0 ∧ s.tracker[k].grant = 0 ∧ s.tracker[k].address = 0
  length    : ∀ k : EntryIx, s.tracker[k].state ≠ .empty → 1 ≤ s.tracker[k].length ∧ s.tracker[k].length ≤ 4096
  issued    : ∀ k : EntryIx, s.tracker[k].state = .issued → (s.grant s.tracker[k].grant).state ≠ .free

/-- The agent settings lie in their ranges, and no agent has more than 8 ISSUED entries (R54, R131). -/
structure AgentsSound (s : State) : Prop where
  limit       : ∀ a : AgentIx, 1 ≤ s.agents[a].limit ∧ s.agents[a].limit ≤ 8
  quota       : ∀ a : AgentIx, s.agents[a].quota ≤ 1024
  outstanding : ∀ a : AgentIx, s.outstanding a ≤ 8

/-- Every non-FREE window lies in the physical space with a length in range and some right, the exclusion ranges hold
values in range, and no non-FREE window overlaps an enabled range (R3, R146, R147). -/
structure WindowsSound (s : State) : Prop where
  length   : ∀ i, (s.grant i).state ≠ .free → 1 ≤ (s.grant i).length ∧ (s.grant i).length ≤ 2 ^ 24
  space    : ∀ i, (s.grant i).state ≠ .free → (s.grant i).base.toNat + (s.grant i).length ≤ 2 ^ 32
  rights   : ∀ i, (s.grant i).state ≠ .free → (s.grant i).rights ≠ Rights.none
  enabled  : ∀ x : RangeIx, s.ranges[x].enabled = true →
    1 ≤ s.ranges[x].length ∧ s.ranges[x].length ≤ 2 ^ 24 ∧ s.ranges[x].base.toNat + s.ranges[x].length ≤ 2 ^ 32
  disabled : ∀ x : RangeIx, s.ranges[x].enabled = false → s.ranges[x].base = 0 ∧ s.ranges[x].length = 0
  excluded : ∀ i, (s.grant i).state ≠ .free → ∀ x : RangeIx, s.ranges[x].enabled = true →
    ¬ (s.ranges[x].base.toNat < (s.grant i).base.toNat + (s.grant i).length ∧
      (s.grant i).base.toNat < s.ranges[x].base.toNat + s.ranges[x].length)

/-- The parent of a derived grant is non-FREE and one level up, covers its window and rights, and is in use while it is
(R3, R5, R15). -/
structure UnderParent (g parent : Grant) : Prop where
  nonFree : parent.state ≠ .free
  depth   : g.depth = parent.depth + 1
  low     : parent.base.toNat ≤ g.base.toNat
  high    : g.base.toNat + g.length ≤ parent.base.toNat + parent.length
  rights  : g.rights.subset parent.rights = true
  inUse   : g.state.inUse = true → parent.state.inUse = true

/-- The delegation tree (R5, R15). -/
structure TreeSound (s : State) : Prop where
  depth    : ∀ i, (s.grant i).depth ≤ 3
  root     : ∀ i, (s.grant i).parent = none → (s.grant i).depth = 0
  parent   : ∀ i p, (s.grant i).parent = some p → UnderParent (s.grant i) (s.grant p)
  children : ∀ i j, j ∈ (s.grant i).children ↔ (s.grant j).parent = some i
  sorted   : ∀ i, (s.grant i).children.Pairwise (· < ·)

/-- The open retire operations (R100, R102): members DRAINING, never none of them, closed under children; a timer in
range; at most one PURGE, and while it is open the processor PURGING or STOPPED (R76). -/
structure RetireSound (s : State) : Prop where
  nonempty : ∀ (k : RetireIx) op, s.retire[k] = some op → op.members ≠ []
  nodup    : ∀ (k : RetireIx) op, s.retire[k] = some op → op.members.Nodup
  draining : ∀ (k : RetireIx) op, s.retire[k] = some op → ∀ i ∈ op.members, (s.grant i).state = .draining
  closed   : ∀ (k : RetireIx) op, s.retire[k] = some op → ∀ i ∈ op.members, ∀ j, (s.grant j).parent = some i →
    j ∈ op.members
  timer    : ∀ (k : RetireIx) op, s.retire[k] = some op → ∀ n, op.drainRemaining = some n → 1 ≤ n ∧ n ≤ 65535
  timeout  : s.config.drainTimeout ≤ 65535
  onePurge : ∀ (j k : RetireIx) o p, s.retire[j] = some o → s.retire[k] = some p → o.kind = .purge → p.kind = .purge →
    j = k
  purging  : ∀ (k : RetireIx) op, s.retire[k] = some op → op.kind = .purge →
    s.processor.state = .purging ∨ s.processor.state = .stopped
  open_    : s.processor.state = .purging → ∃ (k : RetireIx) (op : RetireOp), s.retire[k] = some op ∧ op.kind = .purge

/-- A lease field never holds 0 and lies in range, and a notice is owed only by a DRAINING grant without a lease, while
no response place is unreserved (R122, R123, R125). -/
structure LeasesSound (s : State) : Prop where
  range  : ∀ i n, (s.grant i).lease = some n → 1 ≤ n ∧ n ≤ 1048575
  owed   : ∀ i n, (s.grant i).noticeOwed = some n → (s.grant i).state = .draining ∧ (s.grant i).lease = none
  places : s.owesNotice = true → s.unreserved = 0

/-- No slot that meets the conditions of R8 is left unfreed. -/
def NothingEligible (s : State) : Prop := ∀ i, s.eligible i = false

/-- The table, its windows and its tree together. -/
structure GrantsSound (s : State) : Prop where
  freeList : FreeListSound s
  windows  : WindowsSound s
  tree     : TreeSound s

/-- The table and the retire set together. -/
structure DrainingSound (s : State) : Prop where
  grants : GrantsSound s
  retire : RetireSound s

/-- A predicate on states holds after every command executed in a state where it holds. -/
def KeptByEveryCommand (Inv : State → Prop) : Prop :=
  ∀ (c : Instr) (s t : State), Inv s → exec c s = .next t → Inv t

end Sys2Proof.Machine
end

