-- ==== Sys2Proof/Certificates/Slice0/Obligations.lean ====
section
/-! DEFINITION. The statements for the provers. Each says what its name says, from the numbered rules of spec/. -/

open Sys2Proof Sys2Proof.Machine

/-! ## The machine -/

/-- A step executes the command at the front of the queue with the queue's rest; with none waiting, the block idles, which
is the model's choice (log entry 1). -/
def Obligations.StepRunsTheFrontCommand : Prop :=
  (∀ (c : Instr) (s : State) (rest : List Instr), s.pending = c :: rest → step s = exec c { s with pending := rest }) ∧
    ∀ s : State, s.pending = [] → step s = .next s

/-- Every command answers a next state in every state, and leaves the queue of waiting commands alone. That a command whose
condition fails, or that the ports do not accept in reset, answers a next state with nothing changed is the model's choice
(log entry 6), and the queue of waiting commands is the model's own (log entry 18). -/
def Obligations.EveryCommandAnswersNext : Prop :=
  ∀ (c : Instr) (s : State), ∃ t, exec c s = .next t ∧ t.pending = s.pending

/-- While RST# is asserted, and during power-up, every command but a reset, the release and the movements of CS# changes
nothing and sends nothing. The rules say so port by port (R40, R57, R78, R130, R157, R176, R177); that every command of the
table then answers a next state in which nothing is changed is the model's choice (log entry 6). -/
def Obligations.NothingHappensInReset : Prop :=
  ∀ (c : Instr) (s : State), s.inReset = true → c ≠ .powerOnReset → c ≠ .hardwareReset → c ≠ .resetRelease →
    c ≠ .csAsserted → c ≠ .csDeasserted → exec c s = .next s.quiet

/-! ## Resets -/

/-- POWER_ON_RESET and HARDWARE_RESET: the generations as R20 and R21 lay down, the free list ascending, and every other
block at its defaults with nothing sent. What the model keeps through both (the CS# pin, the free values drawn, the waiting
commands) is its choice (log entries 5, 12). -/
def Obligations.PowerOnAndHardwareResetState : Prop :=
  ∀ s : State,
    let atDefaults (t : State) : Prop :=
      t.freeList.map Fin.val = List.range 1024 ∧
      t = { inReset := true, grants := t.grants, freeList := t.freeList, lanes := Vector.replicate 16 none,
            lanePointer := 15, tracker := Vector.replicate 64 ⟨.empty, 0, 0, 0, .read, 0, 0⟩, commandQueue := [],
            staging := ⟨0, 0, 0, 0, 0, 0⟩, pushRefused := false, responseQueue := [], reserved := 0,
            processor := ⟨.idle, 0, none⟩, retire := Vector.replicate 8 none, clock := ⟨2, none, 0⟩,
            agents := Vector.replicate 16 ⟨.disabled, false, 1024, 4, false⟩, faultSlots := Vector.replicate 16 none,
            faultSelect := 0, ranges := Vector.replicate 4 ⟨false, 0, 0⟩, freezeLevel := 0,
            config := ⟨1000, .fatal, .nonfatal, .nonfatal⟩, errors := ⟨false, false, false, none, false⟩,
            runState := .running, intEnable := 0, service := ⟨.idle, [], [], 0⟩, csAsserted := s.csAsserted,
            out := ⟨[], [], none⟩, freeDraws := s.freeDraws, pending := s.pending }
    (∃ t, exec .powerOnReset s = .next t ∧ atDefaults t ∧ ∀ i, t.grant i = freeRecord 0) ∧
    ∃ t, exec .hardwareReset s = .next t ∧ atDefaults t ∧
      ∀ i, t.grant i = freeRecord ((s.grant i).generation + if (s.grant i).state = .free then 0 else 1)

/-- SOFT_RESET: every non-FREE slot frees with its generation advanced, ISSUED entries become ABANDONED, each lane receives
RESET for its entries in ascending entry order and then for its waiting request, the queues, the processor, the retire
set and the fault slots are cleared, and everything else is kept (R21, R41, R56, R79, R118, R130, R145, R156, R167, R176). -/
def Obligations.SoftResetState : Prop :=
  ∀ s : State, s.inReset = false →
    ∃ t, exec .softReset s = .next t ∧
      (∀ i, t.grant i = freeRecord ((s.grant i).generation + if (s.grant i).state = .free then 0 else 1)) ∧
      t.freeList.map Fin.val = List.range 1024 ∧
      (∀ k : EntryIx, t.tracker[k] = if s.tracker[k].state = .issued
        then { state := .abandoned, agent := 0, tag := 0, grant := 0, kind := s.tracker[k].kind, address := 0,
               length := s.tracker[k].length }
        else s.tracker[k]) ∧
      (∀ a : AgentIx, t.out.responses.filter (fun r => r.lane == a) =
        (s.tracker.toList.filter fun e => decide (e.state = .issued ∧ e.agent = a)).map
            (fun e => { lane := a, tag := e.tag, outcome := .reset })
          ++ (s.lanes[a].toList.map fun q => { lane := a, tag := q.tag, outcome := .reset })) ∧
      t = { s with
            grants := t.grants, freeList := t.freeList, tracker := t.tracker
            out := { responses := t.out.responses, requests := [], miso := none }
            lanes := Vector.replicate 16 none, lanePointer := 15, commandQueue := [], staging := ⟨0, 0, 0, 0, 0, 0⟩
            pushRefused := false, responseQueue := [], reserved := 0, processor := ⟨.idle, 0, none⟩
            retire := Vector.replicate 8 none, faultSlots := Vector.replicate 16 none, faultSelect := 0
            runState := .running, intEnable := 0 }

/-- RESET_RELEASE opens the ports, starts the lease clock's first period and puts the service port into IDLE, or IGNORING
under an asserted CS#; out of reset it changes nothing (log entry 6). State.reset is what POWER_ON_RESET and a release with
CS# deasserted leave, with no free value drawn and no command waiting (log entries 5, 12). -/
def Obligations.ReleaseAndTheStateAfterReset : Prop :=
  (∀ s : State, s.inReset = true → exec .resetRelease s = .next { s with
      inReset := false
      clock := { s.clock with progress := 0 }
      service := { s.service with frame := if s.csAsserted = true then .ignoring else .idle }
      out := ⟨[], [], none⟩ }) ∧
  (∀ s : State, s.inReset = false → exec .resetRelease s = .next s.quiet) ∧
  ∀ s : State, s.csAsserted = false → s.freeDraws = 0 → s.pending = [] →
    ∃ t, exec .powerOnReset s = .next t ∧ exec .resetRelease t = .next State.reset

/-! ## The agent port -/

/-- REQUEST_PRESENTED: an EMPTY lane holds the request as presented; a WAITING lane keeps what it holds and the
presentation leaves no trace. Lane-ready is asserted out of reset while the lane is EMPTY (R22, R40). -/
def Obligations.PresentationFillsAnEmptyLane : Prop :=
  (∀ (s : State) (a : AgentIx) (q : Request), s.inReset = false →
    (s.lanes[a] = none → exec (.requestPresented a q) s = .next { s.quiet with lanes := s.lanes.set a (some q) }) ∧
    ∀ w, s.lanes[a] = some w → exec (.requestPresented a q) s = .next s.quiet) ∧
  ∀ (s : State) (a : AgentIx), laneReady s a = true ↔ s.inReset = false ∧ s.lanes[a] = none

/-- ACCESS_TAKE takes the first takeable lane after the pointer, wrapping, the pointer's own lane last: the lane empties and
the pointer names it, and every other lane keeps its request (R26, R28). -/
def Obligations.ArbiterTakesTheFirstTakeableLane : Prop :=
  ∀ (s : State) (a : AgentIx) (q : Request), NextTake s a q →
    ∃ t, exec .accessTake s = .next t ∧ t.lanes = s.lanes.set a none ∧ t.lanePointer = a

/-- ACCESS_TAKE of a request that fails none of the eleven checks: the lowest EMPTY tracker entry becomes ISSUED with the
request's fields and the translated address, and its memory request is sent; nothing else changes (R29, R36, R44, R45). -/
def Obligations.PassingTakeIssues : Prop :=
  ∀ (s : State) (a : AgentIx) (q : Request), NextTake s a q → firstFailing (elevenChecks s a q) = none →
    ∃ (k : EntryIx) (d : Direction),
      s.tracker[k].state = .empty ∧ (∀ j : EntryIx, j < k → s.tracker[j].state ≠ .empty) ∧
      (q.kind = .read ∧ d = .read ∨ q.kind = .write ∧ d = .write) ∧
      let address : BitVec 40 := BitVec.ofNat 40
        ((s.grant (handleSlot q.handle)).base.toNat * 256 + q.offset.toNat)
      exec .accessTake s = .next { s with
        lanes := s.lanes.set a none
        lanePointer := a
        tracker := s.tracker.set k
          { state := .issued, agent := a, tag := q.tag, grant := handleSlot q.handle, kind := d, address := address,
            length := q.length.toNat }
        out := { responses := [], miso := none, requests :=
          [{ tag := k, kind := d, address := address, length := q.length.toNat,
             writeData := match d with
               | .write => some q.data
               | .read => none }] } }

/-- ACCESS_TAKE of a failing request: FAULT with the kind of the first check that fails goes out on the lane, and no entry,
memory request or grant count changes. STOPPED and AGENT_BLOCKED leave no record; every other fault is offered to the fault
slot with its values as presented, and auto-quarantine follows. A mismatch found at check 6 sets the damaged flag and
records an INTEGRITY error, which may stop the device (R18, R29, R30, R33, R37, R138, R142, R162). -/
def Obligations.FailingTakeFaults : Prop :=
  ∀ (s : State) (a : AgentIx) (q : Request) (f : FaultKind), NextTake s a q →
    firstFailing (elevenChecks s a q) = some f →
    let taken : State := { s.quiet with
      lanes := s.lanes.set a none
      lanePointer := a
      out := ⟨[{ lane := a, tag := q.tag, outcome := .fault f }], [], none⟩ }
    let slot : HeldFault := match s.faultSlots[a] with
      | none => { kind := f, handle := q.handle, offset := q.offset, length := q.length.toNat, accessKind := q.kind,
                  tag := q.tag, more := false }
      | some held => { held with more := true }
    let stored : State := { taken with
      faultSlots := s.faultSlots.set a (some slot)
      agents := if s.agents[a].autoQuarantine then s.agents.set a { s.agents[a] with state := .quarantined }
        else s.agents }
    let g := s.grant (handleSlot q.handle)
    exec .accessTake s = .next
      (if f = .stopped then stopProcessor taken
       else if f = .agentBlocked then taken
       else if f = .damaged ∧ g.damaged = false then
         stopProcessor (recordError .integrity (handleSlot q.handle).val
           (stored.setGrant (handleSlot q.handle) { g with damaged := true }))
       else stored)

/-! ## Memory completions -/

/-- MEMORY_COMPLETION for an ISSUED entry: OK with the read data, or MEMORY_ERROR with a MEMORY fault offered and
auto-quarantine applied; the entry becomes EMPTY. Under a grant that is LIVE or SUSPENDED that is all; under a DRAINING one
the freeing rule is applied to the state so answered, with the completions that follow (R8, R10, R47, R48, R110), which
FreeingTakesTheLowestEligibleSlotFirst and OperationsAndBarriersComplete lay down. Read data is stated where the completion
carries the entry's length, and the fault's offset where the physical address stands above the stored base (log entries 3, 4
give the other cases a free value). -/
def Obligations.CompletionAnswersTheIssuedEntry : Prop :=
  ∀ (s : State) (k : EntryIx) (data : List Byte), s.inReset = false → s.tracker[k].state = .issued →
    let e := s.tracker[k]
    let emptied : State := { s with tracker := s.tracker.set k ⟨.empty, 0, 0, 0, .read, 0, 0⟩ }
    let offset := e.address.toNat - (s.grant e.grant).base.toNat * 256
    let ended (answered : State) : State := if (s.grant e.grant).state = .draining then settle answered else answered
    (e.kind = .read → e.length = data.length →
      exec (.memoryCompletion k .ok data) s = .next (ended
        { emptied with out := ⟨[{ lane := e.agent, tag := e.tag, outcome := .ok (some data) }], [], none⟩ })) ∧
    (e.kind = .write →
      exec (.memoryCompletion k .ok data) s = .next (ended
        { emptied with out := ⟨[{ lane := e.agent, tag := e.tag, outcome := .ok none }], [], none⟩ })) ∧
    ((s.grant e.grant).base.toNat * 256 ≤ e.address.toNat → offset < 2 ^ 32 →
      exec (.memoryCompletion k .error data) s = .next (ended { emptied with
        out := ⟨[{ lane := e.agent, tag := e.tag, outcome := .memoryError }], [], none⟩
        faultSlots := s.faultSlots.set e.agent (some (match s.faultSlots[e.agent] with
          | none => { kind := .memory, handle := mkHandle e.grant (s.grant e.grant).generation,
                      offset := BitVec.ofNat 32 offset, length := e.length,
                      accessKind := match e.kind with
                        | .read => .read
                        | .write => .write,
                      tag := e.tag, more := false }
          | some held => { held with more := true }))
        agents := if s.agents[e.agent].autoQuarantine = true ∧ s.agents[e.agent].state = .active
          then s.agents.set e.agent { s.agents[e.agent] with state := .quarantined } else s.agents }))

/-- MEMORY_COMPLETION for an ABANDONED entry, of either status, makes it EMPTY and does nothing more; for an EMPTY entry it
is dropped and one STRAY error with the tag is recorded, which stops the device where STRAY is FATAL, and leaves a stopped
device stopped (R49, R50). -/
def Obligations.CompletionOfAnAbandonedOrEmptyEntry : Prop :=
  ∀ (s : State) (k : EntryIx) (status : MemStatus) (data : List Byte), s.inReset = false →
    (s.tracker[k].state = .abandoned → exec (.memoryCompletion k status data) s =
      .next { s.quiet with tracker := s.tracker.set k ⟨.empty, 0, 0, 0, .read, 0, 0⟩ }) ∧
    (s.tracker[k].state = .empty →
      let stops : Prop := s.config.stray = .fatal ∨ s.runState = .stopped
      exec (.memoryCompletion k status data) s = .next { s.quiet with
        errors := { s.errors with
          stray := true
          first := some (s.errors.first.getD ⟨.stray, k.val⟩)
          further := s.errors.further || s.errors.first.isSome }
        runState := if stops then .stopped else .running
        processor := if stops then { s.processor with state := .stopped, discardCount := 0 } else s.processor })

/-- The completion of the last access under a DRAINING root grant with no children and no notice owed frees the slot in the
same happening, and the one open operation that held it as its last member completes (R8, R9, R47, R109). -/
def Obligations.LastCompletionFreesAndCompletes : Prop :=
  ∀ (s : State) (k : EntryIx) (j : RetireIx) (op : RetireOp), s.inReset = false → s.tracker[k].state = .issued →
    let e := s.tracker[k]
    let i := e.grant
    e.kind = .write → (s.grant i).state = .draining → (s.grant i).parent = none → (s.grant i).children = [] →
    (s.grant i).noticeOwed = none →
    (∀ l : EntryIx, s.tracker[l].state = .issued → s.tracker[l].grant = i → l = k) →
    (∀ x, x ≠ i → s.eligible x = false) →
    (∀ l : RetireIx, l ≠ j → s.retire[l] = none) → s.retire[j] = some op → op.members = [i] → op.kind = .revoke →
    s.processor.barrierTag = none →
    ∃ t, exec (.memoryCompletion k .ok []) s = .next t ∧
      (∀ x, t.grant x = if x = i then freeRecord ((s.grant i).generation + 1) else s.grant x) ∧
      t = takeTest { s with
        grants := t.grants
        freeList := s.freeList ++ [i]
        tracker := s.tracker.set k ⟨.empty, 0, 0, 0, .read, 0, 0⟩
        retire := s.retire.set j none
        responseQueue := s.responseQueue ++ [.completion
          { tag := op.tag, status := if op.abandoned then .drainedAbandoned else .ok, kind := 0x05, handle := op.target,
            result := .absent }]
        reserved := s.reserved - 1
        out := ⟨[{ lane := e.agent, tag := e.tag, outcome := .ok none }], [], none⟩ }

/-! ## Freeing, retire operations, BARRIER -/

/-- FREEING of one slot: the slot takes the FREE values with its generation advanced, leaves its parent's children set and
every member set, and joins the tail of the free list. Stated where this makes no further slot eligible, empties no member
set, and finds none empty, and of the one freeing step of any happening, in every state whose slot is not its own parent (R9).
That the row FREEING acts as a command of its own is the model's choice (log entry 7). -/
def Obligations.FreeingOneSlot : Prop :=
  (∀ (s : State) (i : SlotIx), (s.grant i).parent ≠ some i →
    (∀ x, (freeSlot i s).grant x = if x = i then freeRecord ((s.grant i).generation + 1)
      else if (s.grant i).parent = some x
        then { s.grant x with children := (s.grant x).children.filter (fun c => c != i) }
        else s.grant x) ∧
    freeSlot i s = { s with
      grants := (freeSlot i s).grants
      freeList := s.freeList ++ [i]
      retire := s.retire.map (Option.map fun op => { op with members := op.members.filter (fun m => m != i) }) }) ∧
  ∀ (s : State) (i : SlotIx), s.inReset = false → s.eligible i = true → (∀ j, j ≠ i → s.eligible j = false) →
    (s.grant i).parent ≠ some i →
    (∀ p, (s.grant i).parent = some p → (s.grant p).state ≠ .draining ∨ ∃ c ∈ (s.grant p).children, c ≠ i) →
    (∀ (k : RetireIx) op, s.retire[k] = some op → ∃ m ∈ op.members, m ≠ i) →
    s.processor.barrierTag = none →
    ∃ t, exec (.freeing i) s = .next t ∧
      (∀ x, t.grant x = if x = i then freeRecord ((s.grant i).generation + 1)
        else if (s.grant i).parent = some x
          then { s.grant x with children := (s.grant x).children.filter (fun c => c != i) }
          else s.grant x) ∧
      t = { s.quiet with
        grants := t.grants
        freeList := s.freeList ++ [i]
        retire := s.retire.map (Option.map fun op => { op with members := op.members.filter (fun m => m != i) }) }

/-- Freeing goes on until no slot is eligible, and at each step frees the eligible slot with the lowest index; a slot is
eligible when it is DRAINING with nothing in flight, no children and no notice owed (R10). -/
def Obligations.FreeingTakesTheLowestEligibleSlotFirst : Prop :=
  ∀ s : State, s.grants.wf = true →
    (∀ i, s.eligible i = true ↔ (s.grant i).state = .draining ∧ (∀ k : EntryIx, s.tracker[k].state = .issued →
      s.tracker[k].grant ≠ i) ∧ (s.grant i).children = [] ∧ (s.grant i).noticeOwed = none) ∧
    (∀ i, s.eligible i = true → (∀ j, j < i → s.eligible j = false) → freeAll s = freeAll (freeSlot i s)) ∧
    ((∀ i, s.eligible i = false) → freeAll s = s) ∧
    ∀ i, (freeAll s).eligible i = false

/-- RETIRE_COMPLETION and BARRIER_COMPLETION. An operation whose member set is empty posts its completion into its
reservation, with its status and target, and its slot becomes FREE; a PURGE disables the four ranges and sets the freeze
level to 0; the processor makes its take test, returning from PURGING at the PURGE's completion. A waiting BARRIER completes
when no slot is OPEN: from BARRIER_WAIT the processor returns to IDLE and its take test, and in STOPPED it stays. Settling,
the end of every happening that may free a slot, frees first, then completes every operation whose member set is empty, in
ascending retire-slot order, then a waiting BARRIER if no slot is left OPEN (R65, R75, R76, R77, R109, R110, R111). That the
two rows act as commands of their own is the model's choice (log entry 7), and that a PURGE keeps the agent records and the
configuration, which R111 and R145 say and R150 does not, is the model's reading (log entry 23). -/
def Obligations.OperationsAndBarriersComplete : Prop :=
  (∀ (s : State) (k : RetireIx) (op : RetireOp), s.inReset = false → s.retire[k] = some op → op.members = [] →
    s.processor.barrierTag = none →
    exec (.retireCompletion k) s = .next (takeTest { s.quiet with
      ranges := if op.kind = .purge then Vector.replicate 4 ⟨false, 0, 0⟩ else s.ranges
      freezeLevel := if op.kind = .purge then 0 else s.freezeLevel
      responseQueue := s.responseQueue ++ [operationCompletion op]
      reserved := s.reserved - 1
      retire := s.retire.set k none
      processor := if op.kind = .purge ∧ s.processor.state = .purging then { s.processor with state := .idle }
        else s.processor })) ∧
  (∀ (s : State) (b : Byte), s.inReset = false → (∀ k : RetireIx, s.retire[k] = none) → s.processor.barrierTag = some b →
    let posted : State := { s.quiet with
      responseQueue := s.responseQueue ++ [.completion
        { tag := b, status := .ok, kind := 0x08, handle := none, result := .absent }]
      reserved := s.reserved - 1 }
    (s.processor.state = .barrierWait → exec .barrierCompletion s =
      .next (takeTest { posted with processor := { s.processor with state := .idle, barrierTag := none } })) ∧
    (s.processor.state = .stopped → exec .barrierCompletion s =
      .next { posted with processor := { s.processor with barrierTag := none } })) ∧
  ∀ s : State,
    let u := freeAll s
    let completed : State := if u.emptied = [] then u else takeTest { retired u u.emptied with
      processor := if (∃ op ∈ u.emptied, op.kind = .purge) ∧ u.processor.state = .purging
        then { u.processor with state := .idle } else u.processor }
    (u.processor.barrierTag = none ∨ (∃ k : RetireIx, completed.retire[k] ≠ none) → settle s = completed) ∧
    ∀ b, u.processor.barrierTag = some b → (∀ k : RetireIx, completed.retire[k] = none) →
      let posted : State := { completed with
        responseQueue := completed.responseQueue ++ [.completion
          { tag := b, status := .ok, kind := 0x08, handle := none, result := .absent }]
        reserved := completed.reserved - 1 }
      (completed.processor.state = .barrierWait → settle s =
        takeTest { posted with processor := { completed.processor with state := .idle, barrierTag := none } }) ∧
      (completed.processor.state = .stopped → settle s =
        { posted with processor := { completed.processor with barrierTag := none } })

/-- OWED_NOTICE_POSTED, and a POP that makes places while notices are owed. The row posts the lowest owed notice into an
unreserved place; a POP removes the head and posts owed notices, one per unreserved place, lowest slot first. Each is posted
unchanged at the tail and its flag clears; in the same happening, after the notices, the freeing rule is applied, the
operations emptied and a waiting BARRIER complete, and the take test is made (R8, R63, R64, R65, R108, R116), where
FreeingTakesTheLowestEligibleSlotFirst and OperationsAndBarriersComplete lay down `settle`. Then, for a grant that something
else still holds, so that no slot frees, the plain result of each. That the row OWED_NOTICE_POSTED acts as a command of its
own, beside an unreserved place, and makes the take test is the model's choice (log entry 7); R64 has the posting within the
pop. -/
def Obligations.OwedNoticeTakesTheFreedPlace : Prop :=
  (∀ s : State, s.inReset = false → s.grants.wf = true → (∃ i, (s.grant i).noticeOwed ≠ none) →
    (s.responseQueue.length + s.reserved < 32 →
      ∃ u, PostsOwed 1 s.quiet u ∧ exec (.owedNoticePosted) s = .next (takeTest (settle u))) ∧
    ∀ (head : ResponseRecord) (tail : List ResponseRecord) (v : Word), s.responseQueue = head :: tail →
      s.responseQueue.length + s.reserved ≤ 32 →
      ∃ u, PostsOwed (32 - (tail.length + s.reserved)) { s.quiet with responseQueue := tail } u ∧
        exec (.pop v) s = .next (takeTest (settle u))) ∧
  ∀ (s : State) (i : SlotIx) (n : Notice), s.inReset = false → s.grants.wf = true → (s.grant i).noticeOwed = some n →
    (∀ j, j < i → (s.grant j).noticeOwed = none) → (∀ j, s.eligible j = false) →
    (0 < s.inFlight i ∨ (s.grant i).children ≠ []) →
    (∀ (k : RetireIx) op, s.retire[k] = some op → op.members ≠ []) → s.processor.barrierTag = none →
    (s.responseQueue.length + s.reserved < 32 →
      ∃ t, exec (.owedNoticePosted) s = .next t ∧
        (∀ x, t.grant x = if x = i then { s.grant i with noticeOwed := none } else s.grant x) ∧
        t = takeTest { s.quiet with grants := t.grants, responseQueue := s.responseQueue ++ [.notice n] }) ∧
    ∀ (head : ResponseRecord) (tail : List ResponseRecord) (v : Word), s.responseQueue = head :: tail →
      s.responseQueue.length + s.reserved = 32 →
      ∃ t, exec (.pop v) s = .next t ∧
        (∀ x, t.grant x = if x = i then { s.grant i with noticeOwed := none } else s.grant x) ∧
        t = takeTest { s.quiet with grants := t.grants, responseQueue := tail ++ [.notice n] }

/-- A drain timeout: every ISSUED entry under a member becomes ABANDONED and its requester receives ABANDONED; if there is
one, the abandoned flag is set and an ABANDON error with the retire slot is recorded; freeing and completions follow. In a
LEASE_TICK that lapses nothing, the operations whose timer stands at 1 time out, in ascending retire-slot order, the answers
on each lane go out in ascending entry order over the whole tick, and the tick goes on to its end (R24, R52, R112, R113, R114,
R121). That the row DRAIN_TIMEOUT acts as a command of its own, on a timer that stands at 0, and makes stages 4 and 5 of the
tick is the model's choice (log entry 7), and so is the order of answers between lanes (log entry 22). -/
def Obligations.DrainTimeoutAbandons : Prop :=
  (∀ (s : State) (k : RetireIx) (op : RetireOp), s.inReset = false → s.retire[k] = some op →
    op.drainRemaining = some 0 →
    exec (.drainTimeout k) s = .next (stopProcessor (settle { timeoutState s k op with
      out := ⟨(s.tracker.toList.filter fun e => decide (e.state = .issued ∧ e.grant ∈ op.members)).map
        fun e => { lane := e.agent, tag := e.tag, outcome := .abandoned }, [], none⟩ }))) ∧
  ∀ s : State, s.inReset = false → s.grants.wf = true →
    (∀ i, (s.grant i).state.inUse = true → (s.grant i).lease ≠ some 1 ∧ (s.grant i).lease ≠ some 0) →
    ∃ u, CountsDown s.quiet u ∧ exec .leaseTick s = .next (tickEnd (stageThree u))

/-! ## The lease clock -/

/-- LEASE_TICK in a state where nothing lapses, times out, frees or completes, in both run states: every lease of a LIVE or
SUSPENDED grant and every drain timer falls by 1, a pending period code becomes current and absent, and the take test is made
(R112, R120, R121, R122, R126). -/
def Obligations.TickCountsDown : Prop :=
  ∀ s : State, s.inReset = false →
    (∀ i, (s.grant i).state.inUse = true → (s.grant i).lease ≠ some 1 ∧ (s.grant i).lease ≠ some 0) →
    (∀ (k : RetireIx) op, s.retire[k] = some op →
      op.members ≠ [] ∧ op.drainRemaining ≠ some 1 ∧ op.drainRemaining ≠ some 0) →
    (∀ i, s.eligible i = false) → s.processor.barrierTag = none →
    ∃ t, exec .leaseTick s = .next t ∧
      (∀ i, t.grant i = if (s.grant i).state = .live ∨ (s.grant i).state = .suspended
        then { s.grant i with lease := (s.grant i).lease.map (· - 1) } else s.grant i) ∧
      t = stopProcessor (takeTest { s.quiet with
        grants := t.grants
        retire := s.retire.map (Option.map fun op => { op with drainRemaining := op.drainRemaining.map (· - 1) })
        clock := { current := s.clock.pending.getD s.clock.current, pending := none, progress := 0 } })

/-- A lapse: the lease becomes absent, the grant and every LIVE or SUSPENDED descendant enter DRAINING, a mismatch found at
the reading of its fields is recorded, and the notice, with the stored values and the number of descendants moved, is posted
into an unreserved place or owed by the grant. A LEASE_TICK, in both run states, counts down, lapses every grant whose lease
reached 0, in ascending slot order, times out every operation whose timer reached 0, and goes on to its end (R6, R18, R121,
R122, R123, R124, R125, R126, R160). That the row LAPSE acts as a command of its own, on a lease that stands at 0, and makes
the freeing, the completions and the take test of the tick is the model's choice (log entry 7), and so is the order between
lanes in which stage 3 lists its answers (log entry 22). -/
def Obligations.LapseDrainsAndNotifies : Prop :=
  ∀ s : State, s.inReset = false → s.grants.wf = true →
    (∀ i, (s.grant i).state ≠ .free → (s.grant i).lease = some 0 →
      ∃ u, LapseOf s.quiet i u ∧ exec (.lapse i) s = .next (stopProcessor (takeTest (settle u)))) ∧
    ∃ counted u, CountsDown s.quiet counted ∧ LapsesInTurn counted.leasesAtZero counted u ∧
      exec .leaseTick s = .next (tickEnd (stageThree u))

/-! ## Host writes -/

/-- PUSH: with fewer than 32 records queued, the staging words join the tail and keep their values, and a push into an empty
queue makes the take test; a full queue is unchanged and PUSH_REFUSED is set. POP: the head record of a non-empty response
queue is removed and, with no notice owed, the processor makes its take test; a pop of an empty queue has no effect (R58,
R60, R63, R67). -/
def Obligations.PushAndPopMoveTheQueues : Prop :=
  ∀ (s : State) (v : Word), s.inReset = false →
    (s.commandQueue = [] → exec (.push v) s = .next (takeTest { s.quiet with commandQueue := [s.staging] })) ∧
    (s.commandQueue ≠ [] → s.commandQueue.length < 32 →
      exec (.push v) s = .next { s.quiet with commandQueue := s.commandQueue ++ [s.staging] }) ∧
    (32 ≤ s.commandQueue.length → exec (.push v) s = .next { s.quiet with pushRefused := true }) ∧
    (s.responseQueue = [] → exec (.pop v) s = .next s.quiet) ∧
    ∀ head tail, s.responseQueue = head :: tail → s.owesNotice = false →
      exec (.pop v) s = .next (takeTest { s.quiet with responseQueue := tail })

/-- RESUME, DISCARD, PUSH_REFUSED_CLEAR and the combinations of one CONTROL write: RESUME and DISCARD act in HALTED alone,
SOFT_RESET overrides the others, DISCARD overrides RESUME, and the PUSH_REFUSED clear acts in every write without
SOFT_RESET (R60, R71, R72, R178). That the REGISTER_WRITE at position 2 answers as those rows do is the model's choice (log
entry 16). -/
def Obligations.ControlActions : Prop :=
  ∀ s : State, s.inReset = false →
    (s.processor.state = .halted →
      exec .resume s = .next (takeTest { s.quiet with processor := { s.processor with state := .idle } }) ∧
      (s.commandQueue = [] →
        exec .discard s = .next (takeTest { s.quiet with processor := { s.processor with state := .idle } })) ∧
      (s.commandQueue ≠ [] → exec .discard s = .next { s.quiet with
        processor := { s.processor with state := .discarding, discardCount := s.commandQueue.length } })) ∧
    (s.processor.state ≠ .halted → exec .resume s = .next s.quiet ∧ exec .discard s = .next s.quiet) ∧
    exec .pushRefusedClear s = .next { s.quiet with pushRefused := false } ∧
    ∀ v : Word,
      let cleared : State := if v.getLsbD 3 then { s with pushRefused := false } else s
      exec (.registerWrite 2 v) s =
        if v.getLsbD 2 then exec .softReset s
        else if v.getLsbD 1 then exec .discard cleared
        else if v.getLsbD 0 then exec .resume cleared
        else .next cleared.quiet

/-- DISCARD_REMOVAL: while DISCARDING with no notice owed and an unreserved place, the head record leaves the queue and its
DISCARDED completion is posted, the count falls by 1, and at 0 the processor returns to IDLE and its take test; otherwise
nothing is removed (R73; log entry 6). -/
def Obligations.DiscardRemovalPostsDiscarded : Prop :=
  ∀ (s : State) (r : CommandRecord) (rest : List CommandRecord), s.inReset = false → s.commandQueue = r :: rest →
    let removed : State := { s.quiet with
      commandQueue := rest
      responseQueue := s.responseQueue ++ [completionOf r .discarded none .absent] }
    let due : Prop := s.processor.state = .discarding ∧ s.owesNotice = false ∧ s.responseQueue.length + s.reserved < 32
    (due → 2 ≤ s.processor.discardCount → exec .discardRemoval s = .next { removed with
      processor := { s.processor with discardCount := s.processor.discardCount - 1 } }) ∧
    (due → s.processor.discardCount = 1 → exec .discardRemoval s = .next (takeTest { removed with
      processor := { s.processor with state := .idle, discardCount := 0 } })) ∧
    (¬ due → exec .discardRemoval s = .next s.quiet)

/-- ERROR_CLEAR, FAULT_ACK, FAULT_SELECT and INT_ENABLE: the error record empties; the named agent's slot empties or the
agent is selected, a value above 15 doing nothing; the enables are replaced. Nothing else changes (R143, R161, R165, R177,
R178). That bits 31 to 6 of INT_ENABLE are stored too is the model's reading (log entry 13). -/
def Obligations.HostRegisterActions : Prop :=
  ∀ (s : State) (v : Word), s.inReset = false →
    exec (.errorClear v) s = .next { s.quiet with errors := ⟨false, false, false, none, false⟩ } ∧
    exec (.intEnable v) s = .next { s.quiet with intEnable := v } ∧
    (∀ a : AgentIx, v.toNat = a.val → exec (.faultAck v) s = .next { s.quiet with faultSlots := s.faultSlots.set a none } ∧
      exec (.faultSelect v) s = .next { s.quiet with faultSelect := a }) ∧
    (16 ≤ v.toNat → exec (.faultAck v) s = .next s.quiet ∧ exec (.faultSelect v) s = .next s.quiet)

/-- REGISTER_WRITE: each register's write is its own action, the staging words store all 32 bits, and a write to a read-only
register or to an offset with no register has no effect. The word position times 4 is the byte offset (R177, R178). That
REGISTER_WRITE at the position of a row of its own answers as that row is the model's choice (log entry 16). CONTROL, at
position 2, is in ControlActions. -/
def Obligations.RegisterWritesAct : Prop :=
  ∀ (s : State) (v : Word), s.inReset = false →
    exec (.registerWrite 0x04 v) s = exec (.intEnable v) s ∧
    exec (.registerWrite 0x07 v) s = exec (.errorClear v) s ∧
    exec (.registerWrite 0x08 v) s = .next { s.quiet with staging := { s.staging with c0 := v } } ∧
    exec (.registerWrite 0x09 v) s = .next { s.quiet with staging := { s.staging with c1 := v } } ∧
    exec (.registerWrite 0x0A v) s = .next { s.quiet with staging := { s.staging with c2 := v } } ∧
    exec (.registerWrite 0x0B v) s = .next { s.quiet with staging := { s.staging with c3 := v } } ∧
    exec (.registerWrite 0x0C v) s = .next { s.quiet with staging := { s.staging with c4 := v } } ∧
    exec (.registerWrite 0x0D v) s = .next { s.quiet with staging := { s.staging with c5 := v } } ∧
    exec (.registerWrite 0x0E v) s = exec (.push v) s ∧
    exec (.registerWrite 0x16 v) s = exec (.pop v) s ∧
    exec (.registerWrite 0x19 v) s = exec (.faultSelect v) s ∧
    exec (.registerWrite 0x1A v) s = exec (.faultAck v) s ∧
    ∀ reg ∈ ([0x00, 0x01, 0x03, 0x05, 0x06, 0x0F, 0x10, 0x11, 0x12, 0x13, 0x14, 0x15, 0x17, 0x18, 0x1B, 0x1C, 0x1D, 0x1E,
        0x1F] : List (BitVec 5)),
      exec (.registerWrite reg v) s = .next s.quiet

/-! ## Takes -/

/-- The take test settles an IDLE or waiting processor by its four conditions in their order, and changes nothing else
(R67). -/
def Obligations.TakeTestFollowsItsTable : Prop :=
  ∀ s : State,
    (s.processor.state ∈ [ProcState.idle, .waitingSpace, .waitingRetire] →
      ∃ p, takeTest s = { s with processor := { s.processor with state := p } } ∧
        (s.commandQueue = [] → p = .idle) ∧
        ∀ r rest, s.commandQueue = r :: rest →
          let full : Prop := (∃ i, (s.grant i).noticeOwed ≠ none) ∨ 32 ≤ s.responseQueue.length + s.reserved
          let revoking : Prop := r.c0.toNat % 256 = 0x05 ∨ r.c0.toNat % 256 = 0x06 ∨ r.c0.toNat % 256 = 0x07
          (full → p = .waitingSpace) ∧
          (¬ full → revoking → (∀ k : RetireIx, s.retire[k] ≠ none) → p = .waitingRetire) ∧
          (¬ full → ¬ (revoking ∧ ∀ k : RetireIx, s.retire[k] ≠ none) → p = .idle)) ∧
    (s.processor.state ∉ [ProcState.idle, .waitingSpace, .waitingRetire] → takeTest s = s)

/-- A take that is not due does not occur: with an empty queue, a processor that is not IDLE, a notice owed, no unreserved
place, a revoking head without a FREE retire slot, or a head of another kind, the take command changes nothing. That the
command then answers with nothing changed is the model's choice (log entry 6); the conditions are those of R66 and R67. -/
def Obligations.NoTakeWhenNoneIsDue : Prop :=
  ∀ (s : State) (k : Option CommandKind), s.inReset = false →
    (s.commandQueue = [] ∨ s.processor.state ≠ .idle ∨ s.owesNotice = true ∨ 32 ≤ s.responseQueue.length + s.reserved ∨
      ∃ r rest, s.commandQueue = r :: rest ∧ (r.kind ≠ k ∨ (r.revoking = true ∧ s.openCount = 8))) →
    exec (takeOf k) s = .next s.quiet

/-- The general checks: a record whose kind code names no command, whose reserved position is not 0, or which holds a 1 in
a bit that its kind does not use, completes MALFORMED with no handle, and the processor enters HALTED; nothing else changes.
The record is taken by the command of its kind, or by UNKNOWN_KIND_CODE. Kind codes 0x01 to 0x0E name the fourteen commands
in their order, and every other code names none (R69, R70, R181). -/
def Obligations.GeneralChecksCompleteMalformed : Prop :=
  (∀ r : CommandRecord,
    let code := r.c0.toNat % 256
    r.kind = (if code = 0 then none else
      [CommandKind.create, .derive, .modify, .query, .revoke, .revokeAgent, .purge, .barrier, .agentSet, .quarantine,
        .release, .excludeSet, .freeze, .configure][code - 1]?)) ∧
  (∀ (r : CommandRecord) (k : CommandKind), r.kind = some k → r.generallyMalformed = r.outside (usedBits k)) ∧
  ∀ (s : State) (r : CommandRecord) (rest : List CommandRecord), TakeReady s r rest →
    (match r.kind with
      | none => True
      | some k => r.outside (usedBits k) = true) →
    exec (takeOf r.kind) s = .next (haltedTake s.quiet rest (completionOf r .malformed none .absent))

/-! ## CREATE, DERIVE, MODIFY, QUERY -/

/-- CREATE that fails none of its checks allocates the head of the free list with the command's values and posts OK with the
new handle; nothing else changes. CREATE that fails a check completes with the status of the first that fails, with no
handle, and changes nothing else; MALFORMED halts the processor (R14, R80, R81, R83, R84, R89). -/
def Obligations.CreateAllocatesOrRefuses : Prop :=
  ∀ (s : State) (r : CommandRecord) (rest : List CommandRecord), TakeReady s r rest → Passes r .create →
    (∀ st, firstFailing (createChecks s r) = some st → exec .create s = .next (endedTake s.quiet rest r st none)) ∧
    ∀ (i : SlotIx) (free : List SlotIx), firstFailing (createChecks s r) = none → s.freeList = i :: free →
      ∃ t, exec .create s = .next t ∧
        (∀ j, t.grant j = if j = i then
          { state := .live, generation := (s.grant i).generation, grantee := r.agent, base := r.c2, length := r.c3.toNat,
            rights := r.rights, ownerLabel := r.label, codeMatches := true, parent := none, depth := 0, children := [],
            lease := if r.c4.toNat = 0 then none else some r.c4.toNat, damaged := false, noticeOwed := none }
          else s.grant j) ∧
        t = completedTake { s.quiet with grants := t.grants, freeList := free } rest
          (completionOf r .ok (some (mkHandle i (s.grant i).generation)) .absent)

/-- DERIVE that fails none of its checks allocates the head of the free list beneath its parent, which gains it as a child,
and posts OK with the new handle; nothing else changes. The head of the free list is FREE, which R13 lays down of every
state (R14, R85, R88). -/
def Obligations.DeriveAllocates : Prop :=
  ∀ (s : State) (r : CommandRecord) (rest : List CommandRecord) (i : SlotIx) (free : List SlotIx),
    TakeReady s r rest → Passes r .derive → firstFailing (deriveChecks s r) = none → s.freeList = i :: free →
    (s.grant i).state = .free →
    let p := handleSlot r.handle
    ∃ t, exec .derive s = .next t ∧
      t.grant i =
        { state := .live, generation := (s.grant i).generation, grantee := r.agent
          base := BitVec.ofNat 32 ((s.grant p).base.toNat + r.c2.toNat), length := r.c3.toNat, rights := r.rights
          ownerLabel := r.label, codeMatches := true, parent := some p, depth := (s.grant p).depth + 1, children := []
          lease := if r.c4.toNat = 0 then none else some r.c4.toNat, damaged := false, noticeOwed := none } ∧
      t.grant p = { s.grant p with children := (t.grant p).children } ∧
      (∀ c, c ∈ (t.grant p).children ↔ c ∈ (s.grant p).children ∨ c = i) ∧
      (∀ j, j ≠ i → j ≠ p → t.grant j = s.grant j) ∧
      t = completedTake { s.quiet with grants := t.grants, freeList := free } rest
        (completionOf r .ok (some (mkHandle i (s.grant i).generation)) .absent)

/-- DERIVE that fails a check completes with the status of the first that fails, with no handle, and changes nothing else,
but for the damaged flag and the INTEGRITY error of a mismatch found at check 3 (R18, R80, R81, R85). -/
def Obligations.DeriveRefusesInOrder : Prop :=
  ∀ (s : State) (r : CommandRecord) (rest : List CommandRecord) (st : Status), TakeReady s r rest → Passes r .derive →
    firstFailing (deriveChecks s r) = some st →
    exec .derive s = .next (stopProcessor (endedTake
      (if st = .damaged then integrityRead (handleSlot r.handle) s.quiet else s.quiet) rest r st none))

/-- MODIFY that fails none of its checks applies every selected option at once, computes the check code anew where a checked
field is written, and posts OK with the handle as pushed. A mismatch found at check 3 of a MODIFY whose one option is SUSPEND
is recorded (R18, R91, R93, R95). -/
def Obligations.ModifyAppliesItsOptions : Prop :=
  ∀ (s : State) (r : CommandRecord) (rest : List CommandRecord), TakeReady s r rest → Passes r .modify →
    firstFailing (modifyChecks s r) = none →
    let i := handleSlot r.handle
    let u := integrityRead i s.quiet
    let opt (n : Nat) : Bool := r.c0.getLsbD (24 + n)
    ∃ t, exec .modify s = .next t ∧
      (∀ j, j ≠ i → t.grant j = s.grant j) ∧
      t.grant i = { u.grant i with
        rights := if opt 0 then r.rights else (s.grant i).rights
        length := if opt 1 then r.c3.toNat else (s.grant i).length
        lease := if opt 2 then (if r.c4.toNat = 0 then none else some r.c4.toNat) else (s.grant i).lease
        ownerLabel := if opt 3 then r.label else (s.grant i).ownerLabel
        state := if opt 4 then .suspended else if opt 5 then .live else (s.grant i).state
        codeMatches := (s.grant i).codeMatches || opt 0 || opt 1 || opt 3 } ∧
      t = stopProcessor (completedTake { u with grants := t.grants } rest (completionOf r .ok (some r.handle) .absent))

/-- MODIFY that fails a check completes with the status of the first that fails and leaves the grant as it was, but for a
mismatch found at check 3. The completion carries the handle as pushed unless it is MALFORMED (R18, R80, R81, R91). -/
def Obligations.ModifyRefusesInOrder : Prop :=
  ∀ (s : State) (r : CommandRecord) (rest : List CommandRecord) (st : Status), TakeReady s r rest → Passes r .modify →
    firstFailing (modifyChecks s r) = some st →
    exec .modify s = .next (stopProcessor (endedTake
      (if st = .damaged then integrityRead (handleSlot r.handle) s.quiet else s.quiet) rest r st
      (if st = .malformed then none else some r.handle)))

/-- QUERY returns the grant record of a handle that resolves, with the damaged flag as its own read leaves it, and completes
NOT_LIVE for a stale handle; both completions carry the handle as pushed (R18, R81, R99). -/
def Obligations.QueryReturnsTheRecord : Prop :=
  ∀ (s : State) (r : CommandRecord) (rest : List CommandRecord), TakeReady s r rest → Passes r .query →
    let i := handleSlot r.handle
    let g := s.grant i
    let u := integrityRead i s.quiet
    (g.state ≠ .free → g.generation = handleGeneration r.handle → exec .query s =
      .next (stopProcessor (completedTake u rest (completionOf r .ok (some r.handle) (.queried
        { state := g.state, grantee := g.grantee, base := g.base, length := g.length, rights := g.rights
          ownerLabel := g.ownerLabel, parent := g.parent.map fun p => mkHandle p (s.grant p).generation
          depth := g.depth, childCount := g.children.length, lease := g.lease, inFlight := s.inFlight i
          damaged := g.damaged || !g.codeMatches, noticeOwed := g.noticeOwed.isSome }))))) ∧
    (g.state = .free ∨ g.generation ≠ handleGeneration r.handle → exec .query s =
      .next (completedTake s.quiet rest (completionOf r .notLive (some r.handle) .absent)))

/-! ## REVOKE, REVOKE_AGENT, PURGE, BARRIER -/

/-- REVOKE, REVOKE_AGENT and PURGE open an operation over their members, which enter DRAINING; REVOKE and REVOKE_AGENT go on
to the take test and PURGE to PURGING. Stated where something holds every member, so that none frees at the take (R101, R103,
R104, R105, R106, R112). -/
def Obligations.RevokingCommandsOpenAnOperation : Prop :=
  ∀ (s : State) (r : CommandRecord) (rest : List CommandRecord), TakeReady s r rest →
    let i := handleSlot r.handle
    let subtree (j : SlotIx) : Prop := j = i ∨ i ∈ s.ancestors j
    let agents (j : SlotIx) : Prop := ∃ p ∈ j :: s.ancestors j, (s.grant p).grantee = r.agent
    (Passes r .revoke → (s.grant i).state ≠ .free → (s.grant i).generation = handleGeneration r.handle →
      NothingFreesAt s subtree →
      OpensOperation .revoke s (integrityRead i s.quiet) r rest .revoke (some r.handle) subtree) ∧
    (Passes r .revokeAgent → NothingFreesAt s agents → (∃ j, (s.grant j).state ≠ .free ∧ agents j) →
      OpensOperation .revokeAgent s (integrityScan s.quiet) r rest .revokeAgent none agents) ∧
    (Passes r .purge → NothingFreesAt s (fun _ => True) → (∃ j, (s.grant j).state ≠ .free) →
      OpensOperation .purge s s.quiet r rest .purge none (fun _ => True))

/-- The takes of the revoking commands, to their end: RevokesAtTheTake lays down, for REVOKE of a handle that resolves,
REVOKE_AGENT and PURGE, whatever the members' state and whether or not a comparison finds a mismatch, which members free with
their subtrees and what completes. And case by case: a REVOKE of a stale handle (NOT_LIVE, no slot opened), a REVOKE of a root
grant in use with nothing in flight and no children (the slot frees and the command completes OK), a REVOKE_AGENT of an agent
without grants, and a PURGE of an empty table, which disables the ranges and sets the freeze level to 0 (R18, R101, R103, R105,
R106, R107, R110, R111). That a PURGE keeps the agent records and the configuration, which R111 and R145 say and R150 does not,
is the model's reading (log entry 23), and so is that the take's own completion is posted last (log entry 14). -/
def Obligations.RevokingCommandsCompleteAtTheTake : Prop :=
  (∀ (s : State) (r : CommandRecord) (rest : List CommandRecord), TakeReady s r rest → s.grants.wf = true →
    let i := handleSlot r.handle
    (Passes r .revoke → (s.grant i).state ≠ .free → (s.grant i).generation = handleGeneration r.handle →
      RevokesAtTheTake .revoke s (integrityRead i s.quiet) r rest .revoke (some r.handle)
        fun j => decide (j = i ∨ i ∈ s.ancestors j)) ∧
    (Passes r .revokeAgent → RevokesAtTheTake .revokeAgent s (integrityScan s.quiet) r rest .revokeAgent none
      fun j => (j :: s.ancestors j).any fun p => decide ((s.grant p).grantee = r.agent)) ∧
    (Passes r .purge → RevokesAtTheTake .purge s s.quiet r rest .purge none fun _ => true)) ∧
  ∀ (s : State) (r : CommandRecord) (rest : List CommandRecord), TakeReady s r rest →
    (∀ (k : RetireIx) op, s.retire[k] = some op → op.members ≠ []) → (∀ j, s.eligible j = false) →
    let i := handleSlot r.handle
    let g := s.grant i
    (Passes r .revoke → g.state = .free ∨ g.generation ≠ handleGeneration r.handle → exec .revoke s =
      .next (completedTake s.quiet rest (completionOf r .notLive (some r.handle) .absent))) ∧
    (Passes r .revoke → g.state.inUse = true → g.generation = handleGeneration r.handle → g.codeMatches = true →
      g.parent = none → g.children = [] → g.noticeOwed = none → s.inFlight i = 0 → (∀ j, i ∉ s.ancestors j) →
      (∀ (k : RetireIx) op, s.retire[k] = some op → i ∉ op.members) →
      ∃ t, exec .revoke s = .next t ∧
        (∀ j, t.grant j = if j = i then freeRecord (g.generation + 1) else s.grant j) ∧
        t = completedTake { s.quiet with grants := t.grants, freeList := s.freeList ++ [i] } rest
          (completionOf r .ok (some r.handle) .absent)) ∧
    (Passes r .revokeAgent → (∀ j, (s.grant j).state ≠ .free → (s.grant j).codeMatches = true ∧
        ∀ p ∈ j :: s.ancestors j, (s.grant p).grantee ≠ r.agent) →
      exec .revokeAgent s = .next (completedTake s.quiet rest (completionOf r .ok none .absent))) ∧
    (Passes r .purge → (∀ j, (s.grant j).state = .free) → exec .purge s = .next (completedTake
      { s.quiet with ranges := Vector.replicate 4 ⟨false, 0, 0⟩, freezeLevel := 0 } rest
      (completionOf r .ok none .absent)))

/-- BARRIER completes OK at its take when no operation is open, and else keeps its reservation, with its tag recorded and the
processor in BARRIER_WAIT (R75). -/
def Obligations.BarrierCompletesOrWaits : Prop :=
  ∀ (s : State) (r : CommandRecord) (rest : List CommandRecord), TakeReady s r rest → Passes r .barrier →
    ((∀ k : RetireIx, s.retire[k] = none) →
      exec .barrier s = .next (completedTake s.quiet rest (completionOf r .ok none .absent))) ∧
    ((∃ k : RetireIx, s.retire[k] ≠ none) → exec .barrier s = .next { s.quiet with
      commandQueue := rest
      reserved := s.reserved + 1
      processor := { s.processor with state := .barrierWait, barrierTag := some r.tag } })

/-! ## Agents, ranges, freeze level, configuration -/

/-- AGENT_SET writes state, quota, limit and auto-quarantine together and keeps the hold, or completes with the status of its
first failing check; QUARANTINE moves ACTIVE to QUARANTINED and RELEASE the other way, and in any other state each completes
NOT_LIVE and changes nothing (R135, R136, R137, R152). That the state AGENT_SET writes replaces QUARANTINED also where it turns
auto-quarantine off is the model's choice between R136 and a sentence of R138 (log entry 26). -/
def Obligations.AgentCommandsWriteTheRecord : Prop :=
  ∀ (s : State) (r : CommandRecord) (rest : List CommandRecord), TakeReady s r rest →
    let old := s.agents[r.agent]
    let ok := completionOf r .ok none .absent
    let notLive := completionOf r .notLive none .absent
    (Passes r .agentSet →
      (∀ st, firstFailing (agentSetChecks s r) = some st → exec .agentSet s = .next (endedTake s.quiet rest r st none)) ∧
      (firstFailing (agentSetChecks s r) = none → exec .agentSet s = .next (completedTake { s.quiet with
        agents := s.agents.set r.agent
          { state := if r.c5.toNat % 4 = 0 then .disabled else .active, hold := old.hold
            quota := r.c5.toNat / 4 % 2048, limit := r.c5.toNat / 2 ^ 13 % 16
            autoQuarantine := decide (r.c5.toNat / 2 ^ 17 % 2 = 1) } } rest ok))) ∧
    (Passes r .quarantine → exec .quarantine s = .next (if old.state = .active
      then completedTake { s.quiet with agents := s.agents.set r.agent { old with state := .quarantined } } rest ok
      else completedTake s.quiet rest notLive)) ∧
    (Passes r .release → exec .release s = .next (if old.state = .quarantined
      then completedTake { s.quiet with agents := s.agents.set r.agent { old with state := .active } } rest ok
      else completedTake s.quiet rest notLive))

/-- EXCLUDE_SET: refused with the status of its first failing check; a disable gives the range base 0 and length 0; an enable
scans the non-FREE grants, completing CONFLICT with the handle of the lowest that overlaps or giving the range its new values
(R148, R149, R152). -/
def Obligations.ExcludeSetWritesTheRange : Prop :=
  ∀ (s : State) (r : CommandRecord) (rest : List CommandRecord), TakeReady s r rest → Passes r .excludeSet →
    s.grants.wf = true →
    (∀ st, firstFailing (excludeSetChecks s r) = some st → exec .excludeSet s = .next (endedTake s.quiet rest r st none)) ∧
    (firstFailing (excludeSetChecks s r) = none →
      let x : RangeIx := Fin.ofNat 4 r.c5.toNat
      let u := integrityScan s.quiet
      let overlaps (i : SlotIx) : Prop := (s.grant i).state ≠ .free ∧
        (s.grant i).base.toNat < r.c2.toNat + r.c3.toNat ∧ r.c2.toNat < (s.grant i).base.toNat + (s.grant i).length
      (r.c5.getLsbD 8 = false → exec .excludeSet s = .next (completedTake
        { s.quiet with ranges := s.ranges.set x ⟨false, 0, 0⟩ } rest (completionOf r .ok none .absent))) ∧
      (r.c5.getLsbD 8 = true → (∀ i, ¬ overlaps i) → exec .excludeSet s = .next (stopProcessor (completedTake
        { u with ranges := s.ranges.set x ⟨true, r.c2, r.c3.toNat⟩ } rest (completionOf r .ok none .absent)))) ∧
      (r.c5.getLsbD 8 = true → ∀ i, overlaps i → (∀ j, j < i → ¬ overlaps j) → exec .excludeSet s =
        .next (stopProcessor (completedTake u rest
          (completionOf r .conflict none (.conflicting (mkHandle i (s.grant i).generation)))))))

/-- FREEZE raises the level or keeps it, and CONFIGURE writes its five values, the period code as pending; each completes with
the status of its first failing check otherwise (R120, R151, R152, R154). -/
def Obligations.FreezeAndConfigureWriteTheirValues : Prop :=
  ∀ (s : State) (r : CommandRecord) (rest : List CommandRecord), TakeReady s r rest →
    let ok := completionOf r .ok none .absent
    let severity (bit : Nat) : Severity := if r.c5.getLsbD bit then .fatal else .nonfatal
    (Passes r .freeze →
      (∀ st, firstFailing (freezeChecks s r) = some st → exec .freeze s = .next (endedTake s.quiet rest r st none)) ∧
      (firstFailing (freezeChecks s r) = none →
        exec .freeze s = .next (completedTake { s.quiet with freezeLevel := Fin.ofNat 3 r.c5.toNat } rest ok))) ∧
    (Passes r .configure →
      (∀ st, firstFailing (configureChecks s r) = some st →
        exec .configure s = .next (endedTake s.quiet rest r st none)) ∧
      (firstFailing (configureChecks s r) = none → exec .configure s = .next (completedTake { s.quiet with
        clock := { s.clock with pending := some (Fin.ofNat 4 r.c5.toNat) }
        config := { drainTimeout := r.c5.toNat / 2 ^ 16, integrity := severity 3, stray := severity 4
                    abandon := severity 5 } } rest ok)))

/-! ## The service port -/

/-- STATUS_READ, ERROR_READ and AGENT_READ: at the completing byte the port enters ANSWER with DONE and the snapshot, and
nothing else changes; an agent byte above 15 is answered BAD_FRAME (R168, R169, R170, R172, R183). That bits which R183 does
not list are sent as 0, and the class and detail of an empty first error too, is the model's choice (log entries 24, 25). -/
def Obligations.SnapshotsOfStatusErrorsAndAgents : Prop :=
  ∀ s : State, s.inReset = false → s.service.frame = .command →
    let byte (n : Nat) : Byte := BitVec.ofNat 8 n
    let answer (received bytes : List Byte) : State := { s.quiet with
      service := { frame := .answer, received := received, answer := bytes, sent := 0 }
      out := ⟨[], [], some 0⟩ }
    (s.service.received = [] →
      exec .statusRead s = .next (answer [0x01] [0x5A,
        byte (128 * runCode s.runState + 16 * procCode s.processor.state + s.freezeLevel.val),
        byte s.commandQueue.length, byte s.responseQueue.length, byte s.reserved,
        byte (s.freeList.length / 256), byte s.freeList.length, byte s.openCount,
        byte (s.level .issued), byte (s.level .abandoned), byte (s.level .empty)]) ∧
      exec .errorRead s = .next (answer [0x02] (match s.errors.first with
        | none => [0x5A, byte (s.errors.integrity.toNat + 2 * s.errors.stray.toNat + 4 * s.errors.abandon.toNat
            + 8 * s.errors.further.toNat), 0, 0]
        | some e => [0x5A, byte (s.errors.integrity.toNat + 2 * s.errors.stray.toNat + 4 * s.errors.abandon.toNat
            + 8 * s.errors.further.toNat + 16 + 32 * errorCode e.errorClass), byte (e.detail / 256), byte e.detail]))) ∧
    (s.service.received = [0x03] → ∀ b : Byte,
      (16 ≤ b.toNat → exec (.agentRead b) s = .next (answer [0x03, b] [0x0F])) ∧
      ∀ a : AgentIx, b.toNat = a.val → exec (.agentRead b) s = .next (answer [0x03, b] ([0x5A,
        byte (agentCode s.agents[a].state + 4 * s.agents[a].hold.toNat + 8 * s.agents[a].autoQuarantine.toNat
          + 16 * s.faultSlots[a].isSome.toNat + 32 * ((s.faultSlots[a].map HeldFault.more).getD false).toNat),
        byte (s.agents[a].quota / 256), byte s.agents[a].quota, byte s.agents[a].limit,
        byte (s.grantCount a / 256), byte (s.grantCount a), byte (s.outstanding a)] ++ match s.faultSlots[a] with
          | none => List.replicate 10 0
          | some f => [byte (faultCode f.kind), byte (f.handle.toNat / 256), byte f.handle.toNat,
              byte (f.offset.toNat / 2 ^ 24), byte (f.offset.toNat / 2 ^ 16), byte (f.offset.toNat / 2 ^ 8),
              byte f.offset.toNat, byte (f.length / 256), byte f.length,
              byte (accessCode f.accessKind + 16 * f.tag.toNat)])))

/-- GRANT_READ: BAD_FRAME for an index above 1023, REFUSED at freeze level 2, and otherwise DONE with the slot record; a
mismatch on an undamaged non-FREE slot is recorded and shown, and may stop the device. So in both run states (R18, R162,
R169, R173, R175, R183). That bits which R183 does not list are sent as 0 is the model's choice (log entry 24). -/
def Obligations.GrantReadReportsTheSlot : Prop :=
  ∀ (s : State) (hi lo : Byte), s.inReset = false → s.service.frame = .command → s.service.received = [0x04, hi] →
    let index := hi.toNat * 256 + lo.toNat
    let byte (n : Nat) : Byte := BitVec.ofNat 8 n
    let answered (u : State) (bytes : List Byte) : State := { u with
      service := { frame := .answer, received := [0x04, hi, lo], answer := bytes, sent := 0 }
      out := ⟨[], [], some 0⟩ }
    (1024 ≤ index → exec (.grantRead lo) s = .next (answered s [0x0F])) ∧
    ∀ i : SlotIx, index = i.val →
      (s.freezeLevel = 2 → exec (.grantRead lo) s = .next (answered s [0x3C])) ∧
      (s.freezeLevel ≠ 2 →
        let u := if (s.grant i).state = .free then s else integrityRead i s
        let g := u.grant i
        exec (.grantRead lo) s = .next (stopProcessor (answered u ([0x5A,
          byte (64 * grantCode g.state + g.generation.toNat),
          byte (16 * g.grantee.val + g.rights.read.toNat + 2 * g.rights.write.toNat + 4 * g.rights.delegable.toNat),
          byte (g.depth % 4 + 4 * g.damaged.toNat + 8 * g.noticeOwed.isSome.toNat + 16 * g.parent.isSome.toNat
            + 32 * g.lease.isSome.toNat),
          byte (g.base.toNat / 2 ^ 24), byte (g.base.toNat / 2 ^ 16), byte (g.base.toNat / 2 ^ 8), byte g.base.toNat,
          byte (g.length / 2 ^ 24), byte (g.length / 2 ^ 16), byte (g.length / 2 ^ 8), byte g.length,
          byte (g.ownerLabel.toNat / 256), byte g.ownerLabel.toNat,
          byte ((g.parent.map Fin.val).getD 0 / 256), byte ((g.parent.map Fin.val).getD 0),
          byte (g.lease.getD 0 / 2 ^ 16), byte (g.lease.getD 0 / 256), byte (g.lease.getD 0),
          byte (s.inFlight i), byte (g.children.length / 256), byte g.children.length]
          ++ g.children.flatMap fun c => [byte (c.val / 256), byte c.val]))))

/-- HOLD and UNHOLD set and clear the named agent's hold and answer with its state and hold as they stood before; an agent
byte above 15, and an opcode that names no transaction, are answered BAD_FRAME with no effect (R140, R169, R170, R174,
R183). That the bits of the answer's byte which R183 does not list are sent as 0 is the model's choice (log entry 24). -/
def Obligations.HoldUnholdAndBadFrames : Prop :=
  ∀ (s : State) (b : Byte), s.inReset = false → s.service.frame = .command →
    let answered (u : State) (received bytes : List Byte) : State := { u with
      service := { frame := .answer, received := received, answer := bytes, sent := 0 }
      out := ⟨[], [], some 0⟩ }
    (∀ a : AgentIx, b.toNat = a.val →
      let before : Byte := BitVec.ofNat 8 (agentCode s.agents[a].state + 4 * s.agents[a].hold.toNat)
      (s.service.received = [0x05] → exec (.hold b) s = .next
        (answered { s with agents := s.agents.set a { s.agents[a] with hold := true } } [0x05, b] [0x5A, before])) ∧
      (s.service.received = [0x06] → exec (.unhold b) s = .next
        (answered { s with agents := s.agents.set a { s.agents[a] with hold := false } } [0x06, b] [0x5A, before]))) ∧
    (16 ≤ b.toNat →
      (s.service.received = [0x05] → exec (.hold b) s = .next (answered s [0x05, b] [0x0F])) ∧
      (s.service.received = [0x06] → exec (.unhold b) s = .next (answered s [0x06, b] [0x0F]))) ∧
    (s.service.received = [] → b.toNat = 0 ∨ 7 ≤ b.toNat → exec (.badFrame b) s = .next (answered s [b] [0x0F]))

/-- CS# and full bytes: CS_ASSERTED opens a frame from IDLE, CS_DEASSERTED returns to IDLE from any frame state, a full byte
is ignored in IDLE and IGNORING, sends the next answer byte in ANSWER, and in COMMAND is kept or, where it completes the
frame, is judged as the transaction's own row judges it (R168, R169, R171, R176). That the bytes, the answer and the position
are empty in IDLE, and that the position stays at the answer's end, is the model's choice (log entry 9); so is that a full byte
and the transaction's own row answer alike (log entry 17). -/
def Obligations.FramesOpenReceiveAndClose : Prop :=
  ∀ s : State,
    (exec .csDeasserted s = .next { s.quiet with csAsserted := false, service := ⟨.idle, [], [], 0⟩ }) ∧
    (s.inReset = true ∨ s.service.frame ≠ .idle → exec .csAsserted s = .next { s.quiet with csAsserted := true }) ∧
    (s.inReset = false →
      (s.service.frame = .idle → exec .csAsserted s =
        .next { s.quiet with csAsserted := true, service := ⟨.command, [], [], 0⟩ }) ∧
      ∀ b : Byte,
        (s.service.frame = .idle → exec (.fullByteReceived b) s = .next s.quiet) ∧
        (s.service.frame = .ignoring → exec (.fullByteReceived b) s = .next { s with out := ⟨[], [], some 0⟩ }) ∧
        (s.service.frame = .answer → ∀ x, s.service.answer[s.service.sent]? = some x →
          exec (.fullByteReceived b) s = .next { s with
            service := { s.service with sent := s.service.sent + 1 }, out := ⟨[], [], some x⟩ }) ∧
        (s.service.frame = .answer → s.service.answer.length ≤ s.service.sent →
          exec (.fullByteReceived b) s = .next { s with out := ⟨[], [], some 0⟩ }) ∧
        (s.service.frame = .command → s.service.received = [] →
          (b = 0x01 → exec (.fullByteReceived b) s = exec .statusRead s) ∧
          (b = 0x02 → exec (.fullByteReceived b) s = exec .errorRead s) ∧
          (3 ≤ b.toNat → b.toNat ≤ 6 → exec (.fullByteReceived b) s = .next { s with
            service := { s.service with received := [b] }, out := ⟨[], [], some 0⟩ }) ∧
          (b.toNat = 0 ∨ 7 ≤ b.toNat → exec (.fullByteReceived b) s = exec (.badFrame b) s)) ∧
        (s.service.frame = .command →
          (s.service.received = [0x03] → exec (.fullByteReceived b) s = exec (.agentRead b) s) ∧
          (s.service.received = [0x05] → exec (.fullByteReceived b) s = exec (.hold b) s) ∧
          (s.service.received = [0x06] → exec (.fullByteReceived b) s = exec (.unhold b) s) ∧
          (s.service.received = [0x04] → exec (.fullByteReceived b) s = .next { s with
            service := { s.service with received := [0x04, b] }, out := ⟨[], [], some 0⟩ }) ∧
          ∀ hi, s.service.received = [0x04, hi] → exec (.fullByteReceived b) s = exec (.grantRead b) s))

/-! ## Integrity, the interrupt line, the registers, handles -/

/-- A read of checked fields that finds a mismatch on an undamaged slot sets the damaged flag and records one INTEGRITY error
with the slot index: the class flag is set, first error is filled if it was empty and further set if it was not, and a FATAL
severity stops the device. On a match, or on a damaged slot, nothing changes. A scan of the non-FREE slots does so for each
mismatch in ascending slot order: the lowest fills an empty first error, and each later one sets further (R18, R157, R158,
R159, R160, R162). -/
def Obligations.IntegrityReadsRecordOnce : Prop :=
  (∀ (s : State) (i : SlotIx),
    ((s.grant i).codeMatches = true ∨ (s.grant i).damaged = true → integrityRead i s = s) ∧
    ((s.grant i).codeMatches = false → (s.grant i).damaged = false → ∃ t, integrityRead i s = t ∧
      (∀ j, t.grant j = if j = i then { s.grant i with damaged := true } else s.grant j) ∧
      t = { s with
        grants := t.grants
        errors := { s.errors with
          integrity := true
          first := some (s.errors.first.getD ⟨.integrity, i.val⟩)
          further := s.errors.further || s.errors.first.isSome }
        runState := if s.config.integrity = .fatal then .stopped else s.runState }) ∧
    integrityRead i (integrityRead i s) = integrityRead i s) ∧
  ∀ s : State, s.grants.wf = true →
    let mismatched : List SlotIx := (List.finRange 1024).filter fun i =>
      decide ((s.grant i).state ≠ .free ∧ (s.grant i).codeMatches = false ∧ (s.grant i).damaged = false)
    (mismatched = [] → integrityScan s = s) ∧
    ∀ lowest later, mismatched = lowest :: later → ∃ t, integrityScan s = t ∧
      (∀ j, t.grant j = if j ∈ mismatched then { s.grant j with damaged := true } else s.grant j) ∧
      t = { s with
        grants := t.grants
        errors := { s.errors with
          integrity := true
          first := some (s.errors.first.getD ⟨.integrity, lowest.val⟩)
          further := s.errors.further || s.errors.first.isSome || decide (later ≠ []) }
        runState := if s.config.integrity = .fatal then .stopped else s.runState }

/-- INT# is asserted exactly while some cause is present and enabled, out of reset; INT_CAUSE shows every cause as it
stands (R164, R165, R167, R179). -/
def Obligations.InterruptLineFollowsTheCauses : Prop :=
  ∀ s : State,
    let causes : List Bool :=
      [decide (s.responseQueue ≠ []), decide (∃ a : AgentIx, s.faultSlots[a] ≠ none),
       decide (s.processor.state = .halted), s.errors.integrity || s.errors.stray || s.errors.abandon,
       decide (s.runState = .stopped), s.pushRefused]
    (intAsserted s = true ↔ s.inReset = false ∧ ∃ n, n < 6 ∧ causes[n]? = some true ∧ s.intEnable.getLsbD n = true) ∧
    (s.inReset = false → ∀ n, n < 32 → (readRegister s 5).getLsbD n = (causes[n]?).getD false)

/-- The readable registers hold their fields at the places the layout gives them: IDENT, DEV_STATUS, QUEUE_LEVELS,
INT_ENABLE, ERROR_RECORD, the staging words, the response words for an empty queue and for each form of head record,
FAULT_SUMMARY, FAULT_SELECT and the fault words; write-only positions and positions with no register read 0, and every
position reads 0 in reset (R61, R177, R179, R180, R182). The codes in them are those of the tables. INT_CAUSE is in
InterruptLineFollowsTheCauses. That INT_ENABLE reads back all 32 bits is the model's reading (log entry 13). -/
def Obligations.StatusRegistersShowTheirFields : Prop :=
  (∀ s : State, s.inReset = true → ∀ w : BitVec 5, readRegister s w = 0) ∧
  (∀ s : State, s.inReset = false → QueuesSound s →
    readRegister s 0 = 0x0001064A ∧
    (readRegister s 1).toNat = runCode s.runState + 2 * procCode s.processor.state + 16 * s.freezeLevel.val
      + 64 * s.pushRefused.toNat + 256 * s.clock.current.val + 1024 * s.clock.pending.isSome.toNat
      + 2048 * (s.clock.pending.getD 0).val ∧
    (readRegister s 3).toNat = s.commandQueue.length + 2 ^ 6 * s.responseQueue.length + 2 ^ 12 * s.reserved
      + 2 ^ 16 * s.level .issued + 2 ^ 23 * s.level .abandoned ∧
    readRegister s 4 = s.intEnable ∧
    (readRegister s 6).toNat = s.errors.integrity.toNat + 2 * s.errors.stray.toNat + 4 * s.errors.abandon.toNat
      + 8 * s.errors.further.toNat + (match s.errors.first with
        | none => 0
        | some e => 16 + 32 * errorCode e.errorClass + 2 ^ 16 * (e.detail % 1024)) ∧
    readRegister s 8 = s.staging.c0 ∧ readRegister s 9 = s.staging.c1 ∧ readRegister s 10 = s.staging.c2 ∧
    readRegister s 11 = s.staging.c3 ∧ readRegister s 12 = s.staging.c4 ∧ readRegister s 13 = s.staging.c5 ∧
    (∀ a : AgentIx, (readRegister s 24).getLsbD a.val = s.faultSlots[a].isSome ∧
      (readRegister s 24).getLsbD (16 + a.val) = decide (s.agents[a].state = .quarantined)) ∧
    (readRegister s 25).toNat = s.faultSelect.val ∧
    (s.faultSlots[s.faultSelect] = none → readRegister s 28 = 0 ∧ readRegister s 29 = 0 ∧ readRegister s 30 = 0) ∧
    (∀ f, s.faultSlots[s.faultSelect] = some f →
      (readRegister s 28).toNat = 1 + 2 * f.more.toNat + 16 * faultCode f.kind + 2 ^ 8 * f.tag.toNat
        + 2 ^ 12 * accessCode f.accessKind + 2 ^ 16 * f.handle.toNat ∧
      readRegister s 29 = f.offset ∧ (readRegister s 30).toNat = f.length % 2 ^ 13) ∧
    (readRegister s 31).toNat = s.faultSelect.val + 16 * agentCode s.agents[s.faultSelect].state ∧
    (∀ w ∈ ([2, 7, 14, 15, 22, 23, 26, 27] : List (BitVec 5)), readRegister s w = 0) ∧
    (s.responseQueue = [] → ∀ w : BitVec 5, 16 ≤ w.toNat → w.toNat ≤ 21 → readRegister s w = 0) ∧
    (∀ c rest, s.responseQueue = .completion c :: rest →
      (readRegister s 16).toNat = 1 + 2 ^ 8 * c.tag.toNat + 2 ^ 16 * statusCode c.status + 2 ^ 24 * c.kind.toNat ∧
      match c.result with
      | .absent => (readRegister s 17).toNat = handleField c.handle ∧ readRegister s 18 = 0 ∧ readRegister s 19 = 0 ∧
          readRegister s 20 = 0 ∧ readRegister s 21 = 0
      | .conflicting h => (readRegister s 17).toNat = handleField c.handle ∧ (readRegister s 18).toNat = h.toNat ∧
          readRegister s 19 = 0 ∧ readRegister s 20 = 0 ∧ readRegister s 21 = 0
      | .queried q => (readRegister s 17).toNat = handleField c.handle + 2 ^ 16 * q.ownerLabel.toNat ∧
          readRegister s 18 = q.base ∧
          (readRegister s 19).toNat = q.length % 2 ^ 25 + 2 ^ 25 * q.rights.read.toNat + 2 ^ 26 * q.rights.write.toNat
            + 2 ^ 27 * q.rights.delegable.toNat + 2 ^ 28 * grantCode q.state + 2 ^ 30 * (q.depth % 4) ∧
          (readRegister s 20).toNat = handleField q.parent + 2 ^ 16 * (q.childCount % 2 ^ 10) + 2 ^ 26 * q.grantee.val
            + 2 ^ 30 * q.damaged.toNat + 2 ^ 31 * q.noticeOwed.toNat ∧
          (readRegister s 21).toNat = q.lease.getD 0 % 2 ^ 20 + 2 ^ 20 * q.lease.isSome.toNat
            + 2 ^ 21 * (q.inFlight % 2 ^ 7)) ∧
    ∀ n rest, s.responseQueue = .notice n :: rest →
      readRegister s 16 = 2 ∧ (readRegister s 17).toNat = n.handle.toNat + 2 ^ 16 * n.label.toNat ∧
      readRegister s 18 = 0 ∧ readRegister s 19 = 0 ∧
      (readRegister s 20).toNat = 2 ^ 16 * (n.moved % 2 ^ 10) + 2 ^ 26 * n.grantee.val ∧ readRegister s 21 = 0) ∧
  [RunState.running, .stopped].map runCode = [0, 1] ∧
  [ProcState.idle, .waitingSpace, .waitingRetire, .barrierWait, .purging, .halted, .discarding, .stopped].map procCode
    = List.range 8 ∧
  [AgentState.disabled, .active, .quarantined].map agentCode = [0, 1, 2] ∧
  [GrantState.live, .suspended, .draining].map grantCode = [1, 2, 3] ∧
  [ErrorClass.integrity, .stray, .abandon].map errorCode = [1, 2, 3] ∧
  [AccessKind.read, .write, .invalid2, .invalid3].map accessCode = [0, 1, 2, 3] ∧
  [FaultKind.malformedRequest, .duplicateTag, .stale, .damaged, .revoked, .suspended, .notGrantee, .rights, .bounds,
    .memory, .stopped, .agentBlocked].map faultCode = List.range' 1 12 ∧
  [Status.ok, .drainedAbandoned, .noFreeSlot, .quota, .excluded, .badRange, .notLive, .hasDescendants, .depth,
    .notDelegable, .notSubset, .damaged, .conflict, .discarded, .isProtected, .malformed].map statusCode
    = [0x00, 0x01, 0x10, 0x11, 0x12, 0x13, 0x14, 0x15, 0x16, 0x17, 0x18, 0x19, 0x1A, 0x1B, 0x20, 0x21]

/-- A handle is generation × 1024 + slot index, and its two parts are read back from it; handle 37/5 is 0x1425, and an absent
handle reads as 0, as handle 0/0 does (R180). -/
def Obligations.HandlesCarrySlotAndGeneration : Prop :=
  (∀ (i : SlotIx) (g : BitVec 6), (mkHandle i g).toNat = g.toNat * 1024 + i.val ∧ handleSlot (mkHandle i g) = i ∧
    handleGeneration (mkHandle i g) = g) ∧
  (∀ h : Handle, (handleSlot h).val = h.toNat % 1024 ∧ (handleGeneration h).toNat = h.toNat / 1024 ∧
    mkHandle (handleSlot h) (handleGeneration h) = h) ∧
  mkHandle 37 5 = 0x1425 ∧ handleField none = 0 ∧ handleField (some (mkHandle 0 0)) = 0

/-! ## Whole-machine rules -/

/-- An access reaches the memory port only at an ACCESS_TAKE, and only if the device was RUNNING, its agent admitted, the
grant LIVE with a matching generation and no SUSPENDED ancestor, the grantee that agent, the rights including the access
kind, and the byte range inside the window (R36). Windows lie in the physical space, which R3 lays down of every state. -/
def Obligations.OnlyAdmittedAccessesReachMemory : Prop :=
  ∀ (c : Instr) (s t : State) (m : MemRequest), WindowsSound s → exec c s = .next t → m ∈ t.out.requests →
    c = .accessTake ∧ ∃ (a : AgentIx) (q : Request), AdmittedAccess s a q m

/-- The requester tags that an agent is owed an answer for, of its ISSUED entries and of the request waiting in its lane, are
after every command those it was owed before, less the tags of the responses that went out on its lane: a request stays owed
until one response goes out with its tag. Stated for every command but a power-on or hardware reset, which drop requests
unanswered, and a presentation on the agent's own lane, which adds one (R24, R25, R43, R55). -/
def Obligations.EveryRequestIsAnsweredOnce : Prop :=
  ∀ (c : Instr) (s t : State) (a : AgentIx), c ≠ .powerOnReset → c ≠ .hardwareReset →
    (∀ q, c ≠ .requestPresented a q) → exec c s = .next t →
    (t.owedTags a ++ (t.out.responses.filter fun r => r.lane == a).map LaneResponse.tag).Perm (s.owedTags a)

/-! ## Invariants: each is kept by every command, from every state that meets it -/

/-- A slot is on the free list if and only if it is FREE, the list never holds an index twice, and the table keeps its
canonical form; the free-list length and the number of non-FREE slots then sum to 1024, and the grant count of an agent is
the number of its non-FREE slots (R1, R13, R133). -/
def Obligations.FreeListStaysExact : Prop :=
  KeptByEveryCommand FreeListSound ∧
    ∀ s : State, FreeListSound s →
      s.freeList.length + (List.finRange 1024).countP (fun i => decide ((s.grant i).state ≠ .free)) = 1024 ∧
      ∀ a : AgentIx, s.grantCount a =
        (List.finRange 1024).countP fun i => decide ((s.grant i).state ≠ .free ∧ (s.grant i).grantee = a)

/-- The response records and the reserved places never exceed 32 together, the command queue never exceeds 32, and the
reservation count is the number of open operations plus 1 while a BARRIER waits (R59, R62). -/
def Obligations.QueuesStayBounded : Prop := KeptByEveryCommand QueuesSound

/-- The processor is STOPPED exactly in a stopped device, holds a discard count exactly while DISCARDING, and stands as its
take test leaves it (R66, R67, R72, R77). -/
def Obligations.ProcessorStaysConsistent : Prop := KeptByEveryCommand ProcessorSound

/-- Tracker entries keep the values of their state, and no ISSUED entry names a FREE slot; and no agent ever has more than 8
ISSUED entries, while the agent settings stay in range (R4, R42, R54, R131). -/
def Obligations.TrackerAndOutstandingCountsStaySound : Prop :=
  KeptByEveryCommand TrackerSound ∧ KeptByEveryCommand AgentsSound

/-- No non-FREE grant's window overlaps an enabled exclusion range, and every window stays in the physical space (R3, R146,
R147). -/
def Obligations.WindowsStayOutsideExclusionRanges : Prop := KeptByEveryCommand WindowsSound

/-- The delegation tree stays sound: parents non-FREE, one level up, covering their children and in use while they are, and
children sets exact (R3, R5, R15). -/
def Obligations.DelegationTreeStaysSound : Prop := KeptByEveryCommand GrantsSound

/-- The retire set stays sound: member sets non-empty, DRAINING and closed under children (R100, R102, R76). -/
def Obligations.RetireSetStaysSound : Prop := KeptByEveryCommand DrainingSound

/-- A lease field never holds 0, and a notice is owed only by a DRAINING grant while no place is unreserved (R122, R125). -/
def Obligations.LeasesAndNoticesStaySound : Prop := KeptByEveryCommand LeasesSound

/-- A DRAINING grant frees at the first happening after which the three conditions of R8 hold: no command leaves an eligible
slot behind (R8, R10). -/
def Obligations.NoEligibleSlotIsLeftBehind : Prop := KeptByEveryCommand NothingEligible

/-- The state after reset, which log entry 12 lays down as power-on reset and release leave it, meets every invariant. -/
def Obligations.StateAfterResetIsSound : Prop :=
  DrainingSound State.reset ∧ QueuesSound State.reset ∧ ProcessorSound State.reset ∧ TrackerSound State.reset ∧
    AgentsSound State.reset ∧ LeasesSound State.reset ∧ NothingEligible State.reset
end

