-- ==== Sys2Proof/Laws/State.lean ====
section
/-! SUPPORT. What each named update of the state leaves in each field: one lemma per field per update, true by unfolding,
so that no proof unfolds an update. -/

namespace Sys2Proof.Machine

/-! ### quiet -/

@[simp] theorem State.quiet_inReset (s : State) : s.quiet.inReset = s.inReset := rfl
@[simp] theorem State.quiet_grants (s : State) : s.quiet.grants = s.grants := rfl
@[simp] theorem State.quiet_freeList (s : State) : s.quiet.freeList = s.freeList := rfl
@[simp] theorem State.quiet_lanes (s : State) : s.quiet.lanes = s.lanes := rfl
@[simp] theorem State.quiet_lanePointer (s : State) : s.quiet.lanePointer = s.lanePointer := rfl
@[simp] theorem State.quiet_tracker (s : State) : s.quiet.tracker = s.tracker := rfl
@[simp] theorem State.quiet_commandQueue (s : State) : s.quiet.commandQueue = s.commandQueue := rfl
@[simp] theorem State.quiet_staging (s : State) : s.quiet.staging = s.staging := rfl
@[simp] theorem State.quiet_pushRefused (s : State) : s.quiet.pushRefused = s.pushRefused := rfl
@[simp] theorem State.quiet_responseQueue (s : State) : s.quiet.responseQueue = s.responseQueue := rfl
@[simp] theorem State.quiet_reserved (s : State) : s.quiet.reserved = s.reserved := rfl
@[simp] theorem State.quiet_processor (s : State) : s.quiet.processor = s.processor := rfl
@[simp] theorem State.quiet_retire (s : State) : s.quiet.retire = s.retire := rfl
@[simp] theorem State.quiet_clock (s : State) : s.quiet.clock = s.clock := rfl
@[simp] theorem State.quiet_agents (s : State) : s.quiet.agents = s.agents := rfl
@[simp] theorem State.quiet_faultSlots (s : State) : s.quiet.faultSlots = s.faultSlots := rfl
@[simp] theorem State.quiet_faultSelect (s : State) : s.quiet.faultSelect = s.faultSelect := rfl
@[simp] theorem State.quiet_ranges (s : State) : s.quiet.ranges = s.ranges := rfl
@[simp] theorem State.quiet_freezeLevel (s : State) : s.quiet.freezeLevel = s.freezeLevel := rfl
@[simp] theorem State.quiet_config (s : State) : s.quiet.config = s.config := rfl
@[simp] theorem State.quiet_errors (s : State) : s.quiet.errors = s.errors := rfl
@[simp] theorem State.quiet_runState (s : State) : s.quiet.runState = s.runState := rfl
@[simp] theorem State.quiet_intEnable (s : State) : s.quiet.intEnable = s.intEnable := rfl
@[simp] theorem State.quiet_service (s : State) : s.quiet.service = s.service := rfl
@[simp] theorem State.quiet_csAsserted (s : State) : s.quiet.csAsserted = s.csAsserted := rfl
@[simp] theorem State.quiet_out (s : State) : s.quiet.out = { responses := [], requests := [], miso := none } := rfl
@[simp] theorem State.quiet_freeDraws (s : State) : s.quiet.freeDraws = s.freeDraws := rfl
@[simp] theorem State.quiet_pending (s : State) : s.quiet.pending = s.pending := rfl

/-! ### setGrant -/

@[simp] theorem State.setGrant_inReset (s : State) (i : SlotIx) (g : Grant) :
    (s.setGrant i g).inReset = s.inReset := rfl
@[simp] theorem State.setGrant_grants (s : State) (i : SlotIx) (g : Grant) :
    (s.setGrant i g).grants = putGrant s.grants i g := rfl
@[simp] theorem State.setGrant_freeList (s : State) (i : SlotIx) (g : Grant) :
    (s.setGrant i g).freeList = s.freeList := rfl
@[simp] theorem State.setGrant_lanes (s : State) (i : SlotIx) (g : Grant) : (s.setGrant i g).lanes = s.lanes := rfl
@[simp] theorem State.setGrant_lanePointer (s : State) (i : SlotIx) (g : Grant) :
    (s.setGrant i g).lanePointer = s.lanePointer := rfl
@[simp] theorem State.setGrant_tracker (s : State) (i : SlotIx) (g : Grant) :
    (s.setGrant i g).tracker = s.tracker := rfl
@[simp] theorem State.setGrant_commandQueue (s : State) (i : SlotIx) (g : Grant) :
    (s.setGrant i g).commandQueue = s.commandQueue := rfl
@[simp] theorem State.setGrant_staging (s : State) (i : SlotIx) (g : Grant) :
    (s.setGrant i g).staging = s.staging := rfl
@[simp] theorem State.setGrant_pushRefused (s : State) (i : SlotIx) (g : Grant) :
    (s.setGrant i g).pushRefused = s.pushRefused := rfl
@[simp] theorem State.setGrant_responseQueue (s : State) (i : SlotIx) (g : Grant) :
    (s.setGrant i g).responseQueue = s.responseQueue := rfl
@[simp] theorem State.setGrant_reserved (s : State) (i : SlotIx) (g : Grant) :
    (s.setGrant i g).reserved = s.reserved := rfl
@[simp] theorem State.setGrant_processor (s : State) (i : SlotIx) (g : Grant) :
    (s.setGrant i g).processor = s.processor := rfl
@[simp] theorem State.setGrant_retire (s : State) (i : SlotIx) (g : Grant) : (s.setGrant i g).retire = s.retire := rfl
@[simp] theorem State.setGrant_clock (s : State) (i : SlotIx) (g : Grant) : (s.setGrant i g).clock = s.clock := rfl
@[simp] theorem State.setGrant_agents (s : State) (i : SlotIx) (g : Grant) : (s.setGrant i g).agents = s.agents := rfl
@[simp] theorem State.setGrant_faultSlots (s : State) (i : SlotIx) (g : Grant) :
    (s.setGrant i g).faultSlots = s.faultSlots := rfl
@[simp] theorem State.setGrant_faultSelect (s : State) (i : SlotIx) (g : Grant) :
    (s.setGrant i g).faultSelect = s.faultSelect := rfl
@[simp] theorem State.setGrant_ranges (s : State) (i : SlotIx) (g : Grant) : (s.setGrant i g).ranges = s.ranges := rfl
@[simp] theorem State.setGrant_freezeLevel (s : State) (i : SlotIx) (g : Grant) :
    (s.setGrant i g).freezeLevel = s.freezeLevel := rfl
@[simp] theorem State.setGrant_config (s : State) (i : SlotIx) (g : Grant) : (s.setGrant i g).config = s.config := rfl
@[simp] theorem State.setGrant_errors (s : State) (i : SlotIx) (g : Grant) : (s.setGrant i g).errors = s.errors := rfl
@[simp] theorem State.setGrant_runState (s : State) (i : SlotIx) (g : Grant) :
    (s.setGrant i g).runState = s.runState := rfl
@[simp] theorem State.setGrant_intEnable (s : State) (i : SlotIx) (g : Grant) :
    (s.setGrant i g).intEnable = s.intEnable := rfl
@[simp] theorem State.setGrant_service (s : State) (i : SlotIx) (g : Grant) :
    (s.setGrant i g).service = s.service := rfl
@[simp] theorem State.setGrant_csAsserted (s : State) (i : SlotIx) (g : Grant) :
    (s.setGrant i g).csAsserted = s.csAsserted := rfl
@[simp] theorem State.setGrant_out (s : State) (i : SlotIx) (g : Grant) : (s.setGrant i g).out = s.out := rfl
@[simp] theorem State.setGrant_freeDraws (s : State) (i : SlotIx) (g : Grant) :
    (s.setGrant i g).freeDraws = s.freeDraws := rfl
@[simp] theorem State.setGrant_pending (s : State) (i : SlotIx) (g : Grant) :
    (s.setGrant i g).pending = s.pending := rfl

/-! ### updateGrants -/

@[simp] theorem State.updateGrants_inReset (s : State) (f : SlotIx → Grant → Grant) :
    (s.updateGrants f).inReset = s.inReset := rfl
@[simp] theorem State.updateGrants_grants (s : State) (f : SlotIx → Grant → Grant) :
    (s.updateGrants f).grants = mapGrants f s.grants := rfl
@[simp] theorem State.updateGrants_freeList (s : State) (f : SlotIx → Grant → Grant) :
    (s.updateGrants f).freeList = s.freeList := rfl
@[simp] theorem State.updateGrants_lanes (s : State) (f : SlotIx → Grant → Grant) :
    (s.updateGrants f).lanes = s.lanes := rfl
@[simp] theorem State.updateGrants_lanePointer (s : State) (f : SlotIx → Grant → Grant) :
    (s.updateGrants f).lanePointer = s.lanePointer := rfl
@[simp] theorem State.updateGrants_tracker (s : State) (f : SlotIx → Grant → Grant) :
    (s.updateGrants f).tracker = s.tracker := rfl
@[simp] theorem State.updateGrants_commandQueue (s : State) (f : SlotIx → Grant → Grant) :
    (s.updateGrants f).commandQueue = s.commandQueue := rfl
@[simp] theorem State.updateGrants_staging (s : State) (f : SlotIx → Grant → Grant) :
    (s.updateGrants f).staging = s.staging := rfl
@[simp] theorem State.updateGrants_pushRefused (s : State) (f : SlotIx → Grant → Grant) :
    (s.updateGrants f).pushRefused = s.pushRefused := rfl
@[simp] theorem State.updateGrants_responseQueue (s : State) (f : SlotIx → Grant → Grant) :
    (s.updateGrants f).responseQueue = s.responseQueue := rfl
@[simp] theorem State.updateGrants_reserved (s : State) (f : SlotIx → Grant → Grant) :
    (s.updateGrants f).reserved = s.reserved := rfl
@[simp] theorem State.updateGrants_processor (s : State) (f : SlotIx → Grant → Grant) :
    (s.updateGrants f).processor = s.processor := rfl
@[simp] theorem State.updateGrants_retire (s : State) (f : SlotIx → Grant → Grant) :
    (s.updateGrants f).retire = s.retire := rfl
@[simp] theorem State.updateGrants_clock (s : State) (f : SlotIx → Grant → Grant) :
    (s.updateGrants f).clock = s.clock := rfl
@[simp] theorem State.updateGrants_agents (s : State) (f : SlotIx → Grant → Grant) :
    (s.updateGrants f).agents = s.agents := rfl
@[simp] theorem State.updateGrants_faultSlots (s : State) (f : SlotIx → Grant → Grant) :
    (s.updateGrants f).faultSlots = s.faultSlots := rfl
@[simp] theorem State.updateGrants_faultSelect (s : State) (f : SlotIx → Grant → Grant) :
    (s.updateGrants f).faultSelect = s.faultSelect := rfl
@[simp] theorem State.updateGrants_ranges (s : State) (f : SlotIx → Grant → Grant) :
    (s.updateGrants f).ranges = s.ranges := rfl
@[simp] theorem State.updateGrants_freezeLevel (s : State) (f : SlotIx → Grant → Grant) :
    (s.updateGrants f).freezeLevel = s.freezeLevel := rfl
@[simp] theorem State.updateGrants_config (s : State) (f : SlotIx → Grant → Grant) :
    (s.updateGrants f).config = s.config := rfl
@[simp] theorem State.updateGrants_errors (s : State) (f : SlotIx → Grant → Grant) :
    (s.updateGrants f).errors = s.errors := rfl
@[simp] theorem State.updateGrants_runState (s : State) (f : SlotIx → Grant → Grant) :
    (s.updateGrants f).runState = s.runState := rfl
@[simp] theorem State.updateGrants_intEnable (s : State) (f : SlotIx → Grant → Grant) :
    (s.updateGrants f).intEnable = s.intEnable := rfl
@[simp] theorem State.updateGrants_service (s : State) (f : SlotIx → Grant → Grant) :
    (s.updateGrants f).service = s.service := rfl
@[simp] theorem State.updateGrants_csAsserted (s : State) (f : SlotIx → Grant → Grant) :
    (s.updateGrants f).csAsserted = s.csAsserted := rfl
@[simp] theorem State.updateGrants_out (s : State) (f : SlotIx → Grant → Grant) : (s.updateGrants f).out = s.out := rfl
@[simp] theorem State.updateGrants_freeDraws (s : State) (f : SlotIx → Grant → Grant) :
    (s.updateGrants f).freeDraws = s.freeDraws := rfl
@[simp] theorem State.updateGrants_pending (s : State) (f : SlotIx → Grant → Grant) :
    (s.updateGrants f).pending = s.pending := rfl

/-! ### setEntry -/

@[simp] theorem State.setEntry_inReset (s : State) (k : EntryIx) (e : Entry) :
    (s.setEntry k e).inReset = s.inReset := rfl
@[simp] theorem State.setEntry_grants (s : State) (k : EntryIx) (e : Entry) : (s.setEntry k e).grants = s.grants := rfl
@[simp] theorem State.setEntry_freeList (s : State) (k : EntryIx) (e : Entry) :
    (s.setEntry k e).freeList = s.freeList := rfl
@[simp] theorem State.setEntry_lanes (s : State) (k : EntryIx) (e : Entry) : (s.setEntry k e).lanes = s.lanes := rfl
@[simp] theorem State.setEntry_lanePointer (s : State) (k : EntryIx) (e : Entry) :
    (s.setEntry k e).lanePointer = s.lanePointer := rfl
@[simp] theorem State.setEntry_tracker (s : State) (k : EntryIx) (e : Entry) :
    (s.setEntry k e).tracker = s.tracker.set k e := rfl
@[simp] theorem State.setEntry_commandQueue (s : State) (k : EntryIx) (e : Entry) :
    (s.setEntry k e).commandQueue = s.commandQueue := rfl
@[simp] theorem State.setEntry_staging (s : State) (k : EntryIx) (e : Entry) :
    (s.setEntry k e).staging = s.staging := rfl
@[simp] theorem State.setEntry_pushRefused (s : State) (k : EntryIx) (e : Entry) :
    (s.setEntry k e).pushRefused = s.pushRefused := rfl
@[simp] theorem State.setEntry_responseQueue (s : State) (k : EntryIx) (e : Entry) :
    (s.setEntry k e).responseQueue = s.responseQueue := rfl
@[simp] theorem State.setEntry_reserved (s : State) (k : EntryIx) (e : Entry) :
    (s.setEntry k e).reserved = s.reserved := rfl
@[simp] theorem State.setEntry_processor (s : State) (k : EntryIx) (e : Entry) :
    (s.setEntry k e).processor = s.processor := rfl
@[simp] theorem State.setEntry_retire (s : State) (k : EntryIx) (e : Entry) : (s.setEntry k e).retire = s.retire := rfl
@[simp] theorem State.setEntry_clock (s : State) (k : EntryIx) (e : Entry) : (s.setEntry k e).clock = s.clock := rfl
@[simp] theorem State.setEntry_agents (s : State) (k : EntryIx) (e : Entry) : (s.setEntry k e).agents = s.agents := rfl
@[simp] theorem State.setEntry_faultSlots (s : State) (k : EntryIx) (e : Entry) :
    (s.setEntry k e).faultSlots = s.faultSlots := rfl
@[simp] theorem State.setEntry_faultSelect (s : State) (k : EntryIx) (e : Entry) :
    (s.setEntry k e).faultSelect = s.faultSelect := rfl
@[simp] theorem State.setEntry_ranges (s : State) (k : EntryIx) (e : Entry) : (s.setEntry k e).ranges = s.ranges := rfl
@[simp] theorem State.setEntry_freezeLevel (s : State) (k : EntryIx) (e : Entry) :
    (s.setEntry k e).freezeLevel = s.freezeLevel := rfl
@[simp] theorem State.setEntry_config (s : State) (k : EntryIx) (e : Entry) : (s.setEntry k e).config = s.config := rfl
@[simp] theorem State.setEntry_errors (s : State) (k : EntryIx) (e : Entry) : (s.setEntry k e).errors = s.errors := rfl
@[simp] theorem State.setEntry_runState (s : State) (k : EntryIx) (e : Entry) :
    (s.setEntry k e).runState = s.runState := rfl
@[simp] theorem State.setEntry_intEnable (s : State) (k : EntryIx) (e : Entry) :
    (s.setEntry k e).intEnable = s.intEnable := rfl
@[simp] theorem State.setEntry_service (s : State) (k : EntryIx) (e : Entry) :
    (s.setEntry k e).service = s.service := rfl
@[simp] theorem State.setEntry_csAsserted (s : State) (k : EntryIx) (e : Entry) :
    (s.setEntry k e).csAsserted = s.csAsserted := rfl
@[simp] theorem State.setEntry_out (s : State) (k : EntryIx) (e : Entry) : (s.setEntry k e).out = s.out := rfl
@[simp] theorem State.setEntry_freeDraws (s : State) (k : EntryIx) (e : Entry) :
    (s.setEntry k e).freeDraws = s.freeDraws := rfl
@[simp] theorem State.setEntry_pending (s : State) (k : EntryIx) (e : Entry) :
    (s.setEntry k e).pending = s.pending := rfl

/-! ### respond -/

@[simp] theorem State.respond_inReset (s : State) (r : LaneResponse) : (s.respond r).inReset = s.inReset := rfl
@[simp] theorem State.respond_grants (s : State) (r : LaneResponse) : (s.respond r).grants = s.grants := rfl
@[simp] theorem State.respond_freeList (s : State) (r : LaneResponse) : (s.respond r).freeList = s.freeList := rfl
@[simp] theorem State.respond_lanes (s : State) (r : LaneResponse) : (s.respond r).lanes = s.lanes := rfl
@[simp] theorem State.respond_lanePointer (s : State) (r : LaneResponse) :
    (s.respond r).lanePointer = s.lanePointer := rfl
@[simp] theorem State.respond_tracker (s : State) (r : LaneResponse) : (s.respond r).tracker = s.tracker := rfl
@[simp] theorem State.respond_commandQueue (s : State) (r : LaneResponse) :
    (s.respond r).commandQueue = s.commandQueue := rfl
@[simp] theorem State.respond_staging (s : State) (r : LaneResponse) : (s.respond r).staging = s.staging := rfl
@[simp] theorem State.respond_pushRefused (s : State) (r : LaneResponse) :
    (s.respond r).pushRefused = s.pushRefused := rfl
@[simp] theorem State.respond_responseQueue (s : State) (r : LaneResponse) :
    (s.respond r).responseQueue = s.responseQueue := rfl
@[simp] theorem State.respond_reserved (s : State) (r : LaneResponse) : (s.respond r).reserved = s.reserved := rfl
@[simp] theorem State.respond_processor (s : State) (r : LaneResponse) : (s.respond r).processor = s.processor := rfl
@[simp] theorem State.respond_retire (s : State) (r : LaneResponse) : (s.respond r).retire = s.retire := rfl
@[simp] theorem State.respond_clock (s : State) (r : LaneResponse) : (s.respond r).clock = s.clock := rfl
@[simp] theorem State.respond_agents (s : State) (r : LaneResponse) : (s.respond r).agents = s.agents := rfl
@[simp] theorem State.respond_faultSlots (s : State) (r : LaneResponse) : (s.respond r).faultSlots = s.faultSlots := rfl
@[simp] theorem State.respond_faultSelect (s : State) (r : LaneResponse) :
    (s.respond r).faultSelect = s.faultSelect := rfl
@[simp] theorem State.respond_ranges (s : State) (r : LaneResponse) : (s.respond r).ranges = s.ranges := rfl
@[simp] theorem State.respond_freezeLevel (s : State) (r : LaneResponse) :
    (s.respond r).freezeLevel = s.freezeLevel := rfl
@[simp] theorem State.respond_config (s : State) (r : LaneResponse) : (s.respond r).config = s.config := rfl
@[simp] theorem State.respond_errors (s : State) (r : LaneResponse) : (s.respond r).errors = s.errors := rfl
@[simp] theorem State.respond_runState (s : State) (r : LaneResponse) : (s.respond r).runState = s.runState := rfl
@[simp] theorem State.respond_intEnable (s : State) (r : LaneResponse) : (s.respond r).intEnable = s.intEnable := rfl
@[simp] theorem State.respond_service (s : State) (r : LaneResponse) : (s.respond r).service = s.service := rfl
@[simp] theorem State.respond_csAsserted (s : State) (r : LaneResponse) : (s.respond r).csAsserted = s.csAsserted := rfl
@[simp] theorem State.respond_out (s : State) (r : LaneResponse) :
    (s.respond r).out = { s.out with responses := s.out.responses ++ [r] } := rfl
@[simp] theorem State.respond_freeDraws (s : State) (r : LaneResponse) : (s.respond r).freeDraws = s.freeDraws := rfl
@[simp] theorem State.respond_pending (s : State) (r : LaneResponse) : (s.respond r).pending = s.pending := rfl

/-! ### setAgent -/

@[simp] theorem State.setAgent_inReset (s : State) (a : AgentIx) (r : Agent) :
    (s.setAgent a r).inReset = s.inReset := rfl
@[simp] theorem State.setAgent_grants (s : State) (a : AgentIx) (r : Agent) : (s.setAgent a r).grants = s.grants := rfl
@[simp] theorem State.setAgent_freeList (s : State) (a : AgentIx) (r : Agent) :
    (s.setAgent a r).freeList = s.freeList := rfl
@[simp] theorem State.setAgent_lanes (s : State) (a : AgentIx) (r : Agent) : (s.setAgent a r).lanes = s.lanes := rfl
@[simp] theorem State.setAgent_lanePointer (s : State) (a : AgentIx) (r : Agent) :
    (s.setAgent a r).lanePointer = s.lanePointer := rfl
@[simp] theorem State.setAgent_tracker (s : State) (a : AgentIx) (r : Agent) :
    (s.setAgent a r).tracker = s.tracker := rfl
@[simp] theorem State.setAgent_commandQueue (s : State) (a : AgentIx) (r : Agent) :
    (s.setAgent a r).commandQueue = s.commandQueue := rfl
@[simp] theorem State.setAgent_staging (s : State) (a : AgentIx) (r : Agent) :
    (s.setAgent a r).staging = s.staging := rfl
@[simp] theorem State.setAgent_pushRefused (s : State) (a : AgentIx) (r : Agent) :
    (s.setAgent a r).pushRefused = s.pushRefused := rfl
@[simp] theorem State.setAgent_responseQueue (s : State) (a : AgentIx) (r : Agent) :
    (s.setAgent a r).responseQueue = s.responseQueue := rfl
@[simp] theorem State.setAgent_reserved (s : State) (a : AgentIx) (r : Agent) :
    (s.setAgent a r).reserved = s.reserved := rfl
@[simp] theorem State.setAgent_processor (s : State) (a : AgentIx) (r : Agent) :
    (s.setAgent a r).processor = s.processor := rfl
@[simp] theorem State.setAgent_retire (s : State) (a : AgentIx) (r : Agent) : (s.setAgent a r).retire = s.retire := rfl
@[simp] theorem State.setAgent_clock (s : State) (a : AgentIx) (r : Agent) : (s.setAgent a r).clock = s.clock := rfl
@[simp] theorem State.setAgent_agents (s : State) (a : AgentIx) (r : Agent) :
    (s.setAgent a r).agents = s.agents.set a r := rfl
@[simp] theorem State.setAgent_faultSlots (s : State) (a : AgentIx) (r : Agent) :
    (s.setAgent a r).faultSlots = s.faultSlots := rfl
@[simp] theorem State.setAgent_faultSelect (s : State) (a : AgentIx) (r : Agent) :
    (s.setAgent a r).faultSelect = s.faultSelect := rfl
@[simp] theorem State.setAgent_ranges (s : State) (a : AgentIx) (r : Agent) : (s.setAgent a r).ranges = s.ranges := rfl
@[simp] theorem State.setAgent_freezeLevel (s : State) (a : AgentIx) (r : Agent) :
    (s.setAgent a r).freezeLevel = s.freezeLevel := rfl
@[simp] theorem State.setAgent_config (s : State) (a : AgentIx) (r : Agent) : (s.setAgent a r).config = s.config := rfl
@[simp] theorem State.setAgent_errors (s : State) (a : AgentIx) (r : Agent) : (s.setAgent a r).errors = s.errors := rfl
@[simp] theorem State.setAgent_runState (s : State) (a : AgentIx) (r : Agent) :
    (s.setAgent a r).runState = s.runState := rfl
@[simp] theorem State.setAgent_intEnable (s : State) (a : AgentIx) (r : Agent) :
    (s.setAgent a r).intEnable = s.intEnable := rfl
@[simp] theorem State.setAgent_service (s : State) (a : AgentIx) (r : Agent) :
    (s.setAgent a r).service = s.service := rfl
@[simp] theorem State.setAgent_csAsserted (s : State) (a : AgentIx) (r : Agent) :
    (s.setAgent a r).csAsserted = s.csAsserted := rfl
@[simp] theorem State.setAgent_out (s : State) (a : AgentIx) (r : Agent) : (s.setAgent a r).out = s.out := rfl
@[simp] theorem State.setAgent_freeDraws (s : State) (a : AgentIx) (r : Agent) :
    (s.setAgent a r).freeDraws = s.freeDraws := rfl
@[simp] theorem State.setAgent_pending (s : State) (a : AgentIx) (r : Agent) :
    (s.setAgent a r).pending = s.pending := rfl

/-! ### setFaultSlot -/

@[simp] theorem State.setFaultSlot_inReset (s : State) (a : AgentIx) (f : Option HeldFault) :
    (s.setFaultSlot a f).inReset = s.inReset := rfl
@[simp] theorem State.setFaultSlot_grants (s : State) (a : AgentIx) (f : Option HeldFault) :
    (s.setFaultSlot a f).grants = s.grants := rfl
@[simp] theorem State.setFaultSlot_freeList (s : State) (a : AgentIx) (f : Option HeldFault) :
    (s.setFaultSlot a f).freeList = s.freeList := rfl
@[simp] theorem State.setFaultSlot_lanes (s : State) (a : AgentIx) (f : Option HeldFault) :
    (s.setFaultSlot a f).lanes = s.lanes := rfl
@[simp] theorem State.setFaultSlot_lanePointer (s : State) (a : AgentIx) (f : Option HeldFault) :
    (s.setFaultSlot a f).lanePointer = s.lanePointer := rfl
@[simp] theorem State.setFaultSlot_tracker (s : State) (a : AgentIx) (f : Option HeldFault) :
    (s.setFaultSlot a f).tracker = s.tracker := rfl
@[simp] theorem State.setFaultSlot_commandQueue (s : State) (a : AgentIx) (f : Option HeldFault) :
    (s.setFaultSlot a f).commandQueue = s.commandQueue := rfl
@[simp] theorem State.setFaultSlot_staging (s : State) (a : AgentIx) (f : Option HeldFault) :
    (s.setFaultSlot a f).staging = s.staging := rfl
@[simp] theorem State.setFaultSlot_pushRefused (s : State) (a : AgentIx) (f : Option HeldFault) :
    (s.setFaultSlot a f).pushRefused = s.pushRefused := rfl
@[simp] theorem State.setFaultSlot_responseQueue (s : State) (a : AgentIx) (f : Option HeldFault) :
    (s.setFaultSlot a f).responseQueue = s.responseQueue := rfl
@[simp] theorem State.setFaultSlot_reserved (s : State) (a : AgentIx) (f : Option HeldFault) :
    (s.setFaultSlot a f).reserved = s.reserved := rfl
@[simp] theorem State.setFaultSlot_processor (s : State) (a : AgentIx) (f : Option HeldFault) :
    (s.setFaultSlot a f).processor = s.processor := rfl
@[simp] theorem State.setFaultSlot_retire (s : State) (a : AgentIx) (f : Option HeldFault) :
    (s.setFaultSlot a f).retire = s.retire := rfl
@[simp] theorem State.setFaultSlot_clock (s : State) (a : AgentIx) (f : Option HeldFault) :
    (s.setFaultSlot a f).clock = s.clock := rfl
@[simp] theorem State.setFaultSlot_agents (s : State) (a : AgentIx) (f : Option HeldFault) :
    (s.setFaultSlot a f).agents = s.agents := rfl
@[simp] theorem State.setFaultSlot_faultSlots (s : State) (a : AgentIx) (f : Option HeldFault) :
    (s.setFaultSlot a f).faultSlots = s.faultSlots.set a f := rfl
@[simp] theorem State.setFaultSlot_faultSelect (s : State) (a : AgentIx) (f : Option HeldFault) :
    (s.setFaultSlot a f).faultSelect = s.faultSelect := rfl
@[simp] theorem State.setFaultSlot_ranges (s : State) (a : AgentIx) (f : Option HeldFault) :
    (s.setFaultSlot a f).ranges = s.ranges := rfl
@[simp] theorem State.setFaultSlot_freezeLevel (s : State) (a : AgentIx) (f : Option HeldFault) :
    (s.setFaultSlot a f).freezeLevel = s.freezeLevel := rfl
@[simp] theorem State.setFaultSlot_config (s : State) (a : AgentIx) (f : Option HeldFault) :
    (s.setFaultSlot a f).config = s.config := rfl
@[simp] theorem State.setFaultSlot_errors (s : State) (a : AgentIx) (f : Option HeldFault) :
    (s.setFaultSlot a f).errors = s.errors := rfl
@[simp] theorem State.setFaultSlot_runState (s : State) (a : AgentIx) (f : Option HeldFault) :
    (s.setFaultSlot a f).runState = s.runState := rfl
@[simp] theorem State.setFaultSlot_intEnable (s : State) (a : AgentIx) (f : Option HeldFault) :
    (s.setFaultSlot a f).intEnable = s.intEnable := rfl
@[simp] theorem State.setFaultSlot_service (s : State) (a : AgentIx) (f : Option HeldFault) :
    (s.setFaultSlot a f).service = s.service := rfl
@[simp] theorem State.setFaultSlot_csAsserted (s : State) (a : AgentIx) (f : Option HeldFault) :
    (s.setFaultSlot a f).csAsserted = s.csAsserted := rfl
@[simp] theorem State.setFaultSlot_out (s : State) (a : AgentIx) (f : Option HeldFault) :
    (s.setFaultSlot a f).out = s.out := rfl
@[simp] theorem State.setFaultSlot_freeDraws (s : State) (a : AgentIx) (f : Option HeldFault) :
    (s.setFaultSlot a f).freeDraws = s.freeDraws := rfl
@[simp] theorem State.setFaultSlot_pending (s : State) (a : AgentIx) (f : Option HeldFault) :
    (s.setFaultSlot a f).pending = s.pending := rfl

/-! ### post -/

@[simp] theorem State.post_inReset (s : State) (r : ResponseRecord) : (s.post r).inReset = s.inReset := rfl
@[simp] theorem State.post_grants (s : State) (r : ResponseRecord) : (s.post r).grants = s.grants := rfl
@[simp] theorem State.post_freeList (s : State) (r : ResponseRecord) : (s.post r).freeList = s.freeList := rfl
@[simp] theorem State.post_lanes (s : State) (r : ResponseRecord) : (s.post r).lanes = s.lanes := rfl
@[simp] theorem State.post_lanePointer (s : State) (r : ResponseRecord) : (s.post r).lanePointer = s.lanePointer := rfl
@[simp] theorem State.post_tracker (s : State) (r : ResponseRecord) : (s.post r).tracker = s.tracker := rfl
@[simp] theorem State.post_commandQueue (s : State) (r : ResponseRecord) :
    (s.post r).commandQueue = s.commandQueue := rfl
@[simp] theorem State.post_staging (s : State) (r : ResponseRecord) : (s.post r).staging = s.staging := rfl
@[simp] theorem State.post_pushRefused (s : State) (r : ResponseRecord) : (s.post r).pushRefused = s.pushRefused := rfl
@[simp] theorem State.post_responseQueue (s : State) (r : ResponseRecord) :
    (s.post r).responseQueue = s.responseQueue ++ [r] := rfl
@[simp] theorem State.post_reserved (s : State) (r : ResponseRecord) : (s.post r).reserved = s.reserved := rfl
@[simp] theorem State.post_processor (s : State) (r : ResponseRecord) : (s.post r).processor = s.processor := rfl
@[simp] theorem State.post_retire (s : State) (r : ResponseRecord) : (s.post r).retire = s.retire := rfl
@[simp] theorem State.post_clock (s : State) (r : ResponseRecord) : (s.post r).clock = s.clock := rfl
@[simp] theorem State.post_agents (s : State) (r : ResponseRecord) : (s.post r).agents = s.agents := rfl
@[simp] theorem State.post_faultSlots (s : State) (r : ResponseRecord) : (s.post r).faultSlots = s.faultSlots := rfl
@[simp] theorem State.post_faultSelect (s : State) (r : ResponseRecord) : (s.post r).faultSelect = s.faultSelect := rfl
@[simp] theorem State.post_ranges (s : State) (r : ResponseRecord) : (s.post r).ranges = s.ranges := rfl
@[simp] theorem State.post_freezeLevel (s : State) (r : ResponseRecord) : (s.post r).freezeLevel = s.freezeLevel := rfl
@[simp] theorem State.post_config (s : State) (r : ResponseRecord) : (s.post r).config = s.config := rfl
@[simp] theorem State.post_errors (s : State) (r : ResponseRecord) : (s.post r).errors = s.errors := rfl
@[simp] theorem State.post_runState (s : State) (r : ResponseRecord) : (s.post r).runState = s.runState := rfl
@[simp] theorem State.post_intEnable (s : State) (r : ResponseRecord) : (s.post r).intEnable = s.intEnable := rfl
@[simp] theorem State.post_service (s : State) (r : ResponseRecord) : (s.post r).service = s.service := rfl
@[simp] theorem State.post_csAsserted (s : State) (r : ResponseRecord) : (s.post r).csAsserted = s.csAsserted := rfl
@[simp] theorem State.post_out (s : State) (r : ResponseRecord) : (s.post r).out = s.out := rfl
@[simp] theorem State.post_freeDraws (s : State) (r : ResponseRecord) : (s.post r).freeDraws = s.freeDraws := rfl
@[simp] theorem State.post_pending (s : State) (r : ResponseRecord) : (s.post r).pending = s.pending := rfl

/-! ### postReserved -/

@[simp] theorem State.postReserved_inReset (s : State) (c : Completion) : (s.postReserved c).inReset = s.inReset := rfl
@[simp] theorem State.postReserved_grants (s : State) (c : Completion) : (s.postReserved c).grants = s.grants := rfl
@[simp] theorem State.postReserved_freeList (s : State) (c : Completion) :
    (s.postReserved c).freeList = s.freeList := rfl
@[simp] theorem State.postReserved_lanes (s : State) (c : Completion) : (s.postReserved c).lanes = s.lanes := rfl
@[simp] theorem State.postReserved_lanePointer (s : State) (c : Completion) :
    (s.postReserved c).lanePointer = s.lanePointer := rfl
@[simp] theorem State.postReserved_tracker (s : State) (c : Completion) : (s.postReserved c).tracker = s.tracker := rfl
@[simp] theorem State.postReserved_commandQueue (s : State) (c : Completion) :
    (s.postReserved c).commandQueue = s.commandQueue := rfl
@[simp] theorem State.postReserved_staging (s : State) (c : Completion) : (s.postReserved c).staging = s.staging := rfl
@[simp] theorem State.postReserved_pushRefused (s : State) (c : Completion) :
    (s.postReserved c).pushRefused = s.pushRefused := rfl
@[simp] theorem State.postReserved_responseQueue (s : State) (c : Completion) :
    (s.postReserved c).responseQueue = s.responseQueue ++ [.completion c] := rfl
@[simp] theorem State.postReserved_reserved (s : State) (c : Completion) :
    (s.postReserved c).reserved = s.reserved - 1 := rfl
@[simp] theorem State.postReserved_processor (s : State) (c : Completion) :
    (s.postReserved c).processor = s.processor := rfl
@[simp] theorem State.postReserved_retire (s : State) (c : Completion) : (s.postReserved c).retire = s.retire := rfl
@[simp] theorem State.postReserved_clock (s : State) (c : Completion) : (s.postReserved c).clock = s.clock := rfl
@[simp] theorem State.postReserved_agents (s : State) (c : Completion) : (s.postReserved c).agents = s.agents := rfl
@[simp] theorem State.postReserved_faultSlots (s : State) (c : Completion) :
    (s.postReserved c).faultSlots = s.faultSlots := rfl
@[simp] theorem State.postReserved_faultSelect (s : State) (c : Completion) :
    (s.postReserved c).faultSelect = s.faultSelect := rfl
@[simp] theorem State.postReserved_ranges (s : State) (c : Completion) : (s.postReserved c).ranges = s.ranges := rfl
@[simp] theorem State.postReserved_freezeLevel (s : State) (c : Completion) :
    (s.postReserved c).freezeLevel = s.freezeLevel := rfl
@[simp] theorem State.postReserved_config (s : State) (c : Completion) : (s.postReserved c).config = s.config := rfl
@[simp] theorem State.postReserved_errors (s : State) (c : Completion) : (s.postReserved c).errors = s.errors := rfl
@[simp] theorem State.postReserved_runState (s : State) (c : Completion) :
    (s.postReserved c).runState = s.runState := rfl
@[simp] theorem State.postReserved_intEnable (s : State) (c : Completion) :
    (s.postReserved c).intEnable = s.intEnable := rfl
@[simp] theorem State.postReserved_service (s : State) (c : Completion) : (s.postReserved c).service = s.service := rfl
@[simp] theorem State.postReserved_csAsserted (s : State) (c : Completion) :
    (s.postReserved c).csAsserted = s.csAsserted := rfl
@[simp] theorem State.postReserved_out (s : State) (c : Completion) : (s.postReserved c).out = s.out := rfl
@[simp] theorem State.postReserved_freeDraws (s : State) (c : Completion) :
    (s.postReserved c).freeDraws = s.freeDraws := rfl
@[simp] theorem State.postReserved_pending (s : State) (c : Completion) : (s.postReserved c).pending = s.pending := rfl

/-! ### setProc -/

@[simp] theorem State.setProc_inReset (s : State) (p : ProcState) : (s.setProc p).inReset = s.inReset := rfl
@[simp] theorem State.setProc_grants (s : State) (p : ProcState) : (s.setProc p).grants = s.grants := rfl
@[simp] theorem State.setProc_freeList (s : State) (p : ProcState) : (s.setProc p).freeList = s.freeList := rfl
@[simp] theorem State.setProc_lanes (s : State) (p : ProcState) : (s.setProc p).lanes = s.lanes := rfl
@[simp] theorem State.setProc_lanePointer (s : State) (p : ProcState) : (s.setProc p).lanePointer = s.lanePointer := rfl
@[simp] theorem State.setProc_tracker (s : State) (p : ProcState) : (s.setProc p).tracker = s.tracker := rfl
@[simp] theorem State.setProc_commandQueue (s : State) (p : ProcState) :
    (s.setProc p).commandQueue = s.commandQueue := rfl
@[simp] theorem State.setProc_staging (s : State) (p : ProcState) : (s.setProc p).staging = s.staging := rfl
@[simp] theorem State.setProc_pushRefused (s : State) (p : ProcState) : (s.setProc p).pushRefused = s.pushRefused := rfl
@[simp] theorem State.setProc_responseQueue (s : State) (p : ProcState) :
    (s.setProc p).responseQueue = s.responseQueue := rfl
@[simp] theorem State.setProc_reserved (s : State) (p : ProcState) : (s.setProc p).reserved = s.reserved := rfl
@[simp] theorem State.setProc_processor (s : State) (p : ProcState) :
    (s.setProc p).processor = { s.processor with state := p } := rfl
@[simp] theorem State.setProc_retire (s : State) (p : ProcState) : (s.setProc p).retire = s.retire := rfl
@[simp] theorem State.setProc_clock (s : State) (p : ProcState) : (s.setProc p).clock = s.clock := rfl
@[simp] theorem State.setProc_agents (s : State) (p : ProcState) : (s.setProc p).agents = s.agents := rfl
@[simp] theorem State.setProc_faultSlots (s : State) (p : ProcState) : (s.setProc p).faultSlots = s.faultSlots := rfl
@[simp] theorem State.setProc_faultSelect (s : State) (p : ProcState) : (s.setProc p).faultSelect = s.faultSelect := rfl
@[simp] theorem State.setProc_ranges (s : State) (p : ProcState) : (s.setProc p).ranges = s.ranges := rfl
@[simp] theorem State.setProc_freezeLevel (s : State) (p : ProcState) : (s.setProc p).freezeLevel = s.freezeLevel := rfl
@[simp] theorem State.setProc_config (s : State) (p : ProcState) : (s.setProc p).config = s.config := rfl
@[simp] theorem State.setProc_errors (s : State) (p : ProcState) : (s.setProc p).errors = s.errors := rfl
@[simp] theorem State.setProc_runState (s : State) (p : ProcState) : (s.setProc p).runState = s.runState := rfl
@[simp] theorem State.setProc_intEnable (s : State) (p : ProcState) : (s.setProc p).intEnable = s.intEnable := rfl
@[simp] theorem State.setProc_service (s : State) (p : ProcState) : (s.setProc p).service = s.service := rfl
@[simp] theorem State.setProc_csAsserted (s : State) (p : ProcState) : (s.setProc p).csAsserted = s.csAsserted := rfl
@[simp] theorem State.setProc_out (s : State) (p : ProcState) : (s.setProc p).out = s.out := rfl
@[simp] theorem State.setProc_freeDraws (s : State) (p : ProcState) : (s.setProc p).freeDraws = s.freeDraws := rfl
@[simp] theorem State.setProc_pending (s : State) (p : ProcState) : (s.setProc p).pending = s.pending := rfl

/-! ### takeHead -/

@[simp] theorem State.takeHead_inReset (s : State) (rest : List CommandRecord) :
    (s.takeHead rest).inReset = s.inReset := rfl
@[simp] theorem State.takeHead_grants (s : State) (rest : List CommandRecord) :
    (s.takeHead rest).grants = s.grants := rfl
@[simp] theorem State.takeHead_freeList (s : State) (rest : List CommandRecord) :
    (s.takeHead rest).freeList = s.freeList := rfl
@[simp] theorem State.takeHead_lanes (s : State) (rest : List CommandRecord) : (s.takeHead rest).lanes = s.lanes := rfl
@[simp] theorem State.takeHead_lanePointer (s : State) (rest : List CommandRecord) :
    (s.takeHead rest).lanePointer = s.lanePointer := rfl
@[simp] theorem State.takeHead_tracker (s : State) (rest : List CommandRecord) :
    (s.takeHead rest).tracker = s.tracker := rfl
@[simp] theorem State.takeHead_commandQueue (s : State) (rest : List CommandRecord) :
    (s.takeHead rest).commandQueue = rest := rfl
@[simp] theorem State.takeHead_staging (s : State) (rest : List CommandRecord) :
    (s.takeHead rest).staging = s.staging := rfl
@[simp] theorem State.takeHead_pushRefused (s : State) (rest : List CommandRecord) :
    (s.takeHead rest).pushRefused = s.pushRefused := rfl
@[simp] theorem State.takeHead_responseQueue (s : State) (rest : List CommandRecord) :
    (s.takeHead rest).responseQueue = s.responseQueue := rfl
@[simp] theorem State.takeHead_reserved (s : State) (rest : List CommandRecord) :
    (s.takeHead rest).reserved = s.reserved + 1 := rfl
@[simp] theorem State.takeHead_processor (s : State) (rest : List CommandRecord) :
    (s.takeHead rest).processor = s.processor := rfl
@[simp] theorem State.takeHead_retire (s : State) (rest : List CommandRecord) :
    (s.takeHead rest).retire = s.retire := rfl
@[simp] theorem State.takeHead_clock (s : State) (rest : List CommandRecord) : (s.takeHead rest).clock = s.clock := rfl
@[simp] theorem State.takeHead_agents (s : State) (rest : List CommandRecord) :
    (s.takeHead rest).agents = s.agents := rfl
@[simp] theorem State.takeHead_faultSlots (s : State) (rest : List CommandRecord) :
    (s.takeHead rest).faultSlots = s.faultSlots := rfl
@[simp] theorem State.takeHead_faultSelect (s : State) (rest : List CommandRecord) :
    (s.takeHead rest).faultSelect = s.faultSelect := rfl
@[simp] theorem State.takeHead_ranges (s : State) (rest : List CommandRecord) :
    (s.takeHead rest).ranges = s.ranges := rfl
@[simp] theorem State.takeHead_freezeLevel (s : State) (rest : List CommandRecord) :
    (s.takeHead rest).freezeLevel = s.freezeLevel := rfl
@[simp] theorem State.takeHead_config (s : State) (rest : List CommandRecord) :
    (s.takeHead rest).config = s.config := rfl
@[simp] theorem State.takeHead_errors (s : State) (rest : List CommandRecord) :
    (s.takeHead rest).errors = s.errors := rfl
@[simp] theorem State.takeHead_runState (s : State) (rest : List CommandRecord) :
    (s.takeHead rest).runState = s.runState := rfl
@[simp] theorem State.takeHead_intEnable (s : State) (rest : List CommandRecord) :
    (s.takeHead rest).intEnable = s.intEnable := rfl
@[simp] theorem State.takeHead_service (s : State) (rest : List CommandRecord) :
    (s.takeHead rest).service = s.service := rfl
@[simp] theorem State.takeHead_csAsserted (s : State) (rest : List CommandRecord) :
    (s.takeHead rest).csAsserted = s.csAsserted := rfl
@[simp] theorem State.takeHead_out (s : State) (rest : List CommandRecord) : (s.takeHead rest).out = s.out := rfl
@[simp] theorem State.takeHead_freeDraws (s : State) (rest : List CommandRecord) :
    (s.takeHead rest).freeDraws = s.freeDraws := rfl
@[simp] theorem State.takeHead_pending (s : State) (rest : List CommandRecord) :
    (s.takeHead rest).pending = s.pending := rfl

/-! ### setRetire -/

@[simp] theorem State.setRetire_inReset (s : State) (k : RetireIx) (op : Option RetireOp) :
    (s.setRetire k op).inReset = s.inReset := rfl
@[simp] theorem State.setRetire_grants (s : State) (k : RetireIx) (op : Option RetireOp) :
    (s.setRetire k op).grants = s.grants := rfl
@[simp] theorem State.setRetire_freeList (s : State) (k : RetireIx) (op : Option RetireOp) :
    (s.setRetire k op).freeList = s.freeList := rfl
@[simp] theorem State.setRetire_lanes (s : State) (k : RetireIx) (op : Option RetireOp) :
    (s.setRetire k op).lanes = s.lanes := rfl
@[simp] theorem State.setRetire_lanePointer (s : State) (k : RetireIx) (op : Option RetireOp) :
    (s.setRetire k op).lanePointer = s.lanePointer := rfl
@[simp] theorem State.setRetire_tracker (s : State) (k : RetireIx) (op : Option RetireOp) :
    (s.setRetire k op).tracker = s.tracker := rfl
@[simp] theorem State.setRetire_commandQueue (s : State) (k : RetireIx) (op : Option RetireOp) :
    (s.setRetire k op).commandQueue = s.commandQueue := rfl
@[simp] theorem State.setRetire_staging (s : State) (k : RetireIx) (op : Option RetireOp) :
    (s.setRetire k op).staging = s.staging := rfl
@[simp] theorem State.setRetire_pushRefused (s : State) (k : RetireIx) (op : Option RetireOp) :
    (s.setRetire k op).pushRefused = s.pushRefused := rfl
@[simp] theorem State.setRetire_responseQueue (s : State) (k : RetireIx) (op : Option RetireOp) :
    (s.setRetire k op).responseQueue = s.responseQueue := rfl
@[simp] theorem State.setRetire_reserved (s : State) (k : RetireIx) (op : Option RetireOp) :
    (s.setRetire k op).reserved = s.reserved := rfl
@[simp] theorem State.setRetire_processor (s : State) (k : RetireIx) (op : Option RetireOp) :
    (s.setRetire k op).processor = s.processor := rfl
@[simp] theorem State.setRetire_retire (s : State) (k : RetireIx) (op : Option RetireOp) :
    (s.setRetire k op).retire = s.retire.set k op := rfl
@[simp] theorem State.setRetire_clock (s : State) (k : RetireIx) (op : Option RetireOp) :
    (s.setRetire k op).clock = s.clock := rfl
@[simp] theorem State.setRetire_agents (s : State) (k : RetireIx) (op : Option RetireOp) :
    (s.setRetire k op).agents = s.agents := rfl
@[simp] theorem State.setRetire_faultSlots (s : State) (k : RetireIx) (op : Option RetireOp) :
    (s.setRetire k op).faultSlots = s.faultSlots := rfl
@[simp] theorem State.setRetire_faultSelect (s : State) (k : RetireIx) (op : Option RetireOp) :
    (s.setRetire k op).faultSelect = s.faultSelect := rfl
@[simp] theorem State.setRetire_ranges (s : State) (k : RetireIx) (op : Option RetireOp) :
    (s.setRetire k op).ranges = s.ranges := rfl
@[simp] theorem State.setRetire_freezeLevel (s : State) (k : RetireIx) (op : Option RetireOp) :
    (s.setRetire k op).freezeLevel = s.freezeLevel := rfl
@[simp] theorem State.setRetire_config (s : State) (k : RetireIx) (op : Option RetireOp) :
    (s.setRetire k op).config = s.config := rfl
@[simp] theorem State.setRetire_errors (s : State) (k : RetireIx) (op : Option RetireOp) :
    (s.setRetire k op).errors = s.errors := rfl
@[simp] theorem State.setRetire_runState (s : State) (k : RetireIx) (op : Option RetireOp) :
    (s.setRetire k op).runState = s.runState := rfl
@[simp] theorem State.setRetire_intEnable (s : State) (k : RetireIx) (op : Option RetireOp) :
    (s.setRetire k op).intEnable = s.intEnable := rfl
@[simp] theorem State.setRetire_service (s : State) (k : RetireIx) (op : Option RetireOp) :
    (s.setRetire k op).service = s.service := rfl
@[simp] theorem State.setRetire_csAsserted (s : State) (k : RetireIx) (op : Option RetireOp) :
    (s.setRetire k op).csAsserted = s.csAsserted := rfl
@[simp] theorem State.setRetire_out (s : State) (k : RetireIx) (op : Option RetireOp) :
    (s.setRetire k op).out = s.out := rfl
@[simp] theorem State.setRetire_freeDraws (s : State) (k : RetireIx) (op : Option RetireOp) :
    (s.setRetire k op).freeDraws = s.freeDraws := rfl
@[simp] theorem State.setRetire_pending (s : State) (k : RetireIx) (op : Option RetireOp) :
    (s.setRetire k op).pending = s.pending := rfl

/-! ### setLane -/

@[simp] theorem State.setLane_inReset (s : State) (a : AgentIx) (q : Option Request) :
    (s.setLane a q).inReset = s.inReset := rfl
@[simp] theorem State.setLane_grants (s : State) (a : AgentIx) (q : Option Request) :
    (s.setLane a q).grants = s.grants := rfl
@[simp] theorem State.setLane_freeList (s : State) (a : AgentIx) (q : Option Request) :
    (s.setLane a q).freeList = s.freeList := rfl
@[simp] theorem State.setLane_lanes (s : State) (a : AgentIx) (q : Option Request) :
    (s.setLane a q).lanes = s.lanes.set a q := rfl
@[simp] theorem State.setLane_lanePointer (s : State) (a : AgentIx) (q : Option Request) :
    (s.setLane a q).lanePointer = s.lanePointer := rfl
@[simp] theorem State.setLane_tracker (s : State) (a : AgentIx) (q : Option Request) :
    (s.setLane a q).tracker = s.tracker := rfl
@[simp] theorem State.setLane_commandQueue (s : State) (a : AgentIx) (q : Option Request) :
    (s.setLane a q).commandQueue = s.commandQueue := rfl
@[simp] theorem State.setLane_staging (s : State) (a : AgentIx) (q : Option Request) :
    (s.setLane a q).staging = s.staging := rfl
@[simp] theorem State.setLane_pushRefused (s : State) (a : AgentIx) (q : Option Request) :
    (s.setLane a q).pushRefused = s.pushRefused := rfl
@[simp] theorem State.setLane_responseQueue (s : State) (a : AgentIx) (q : Option Request) :
    (s.setLane a q).responseQueue = s.responseQueue := rfl
@[simp] theorem State.setLane_reserved (s : State) (a : AgentIx) (q : Option Request) :
    (s.setLane a q).reserved = s.reserved := rfl
@[simp] theorem State.setLane_processor (s : State) (a : AgentIx) (q : Option Request) :
    (s.setLane a q).processor = s.processor := rfl
@[simp] theorem State.setLane_retire (s : State) (a : AgentIx) (q : Option Request) :
    (s.setLane a q).retire = s.retire := rfl
@[simp] theorem State.setLane_clock (s : State) (a : AgentIx) (q : Option Request) :
    (s.setLane a q).clock = s.clock := rfl
@[simp] theorem State.setLane_agents (s : State) (a : AgentIx) (q : Option Request) :
    (s.setLane a q).agents = s.agents := rfl
@[simp] theorem State.setLane_faultSlots (s : State) (a : AgentIx) (q : Option Request) :
    (s.setLane a q).faultSlots = s.faultSlots := rfl
@[simp] theorem State.setLane_faultSelect (s : State) (a : AgentIx) (q : Option Request) :
    (s.setLane a q).faultSelect = s.faultSelect := rfl
@[simp] theorem State.setLane_ranges (s : State) (a : AgentIx) (q : Option Request) :
    (s.setLane a q).ranges = s.ranges := rfl
@[simp] theorem State.setLane_freezeLevel (s : State) (a : AgentIx) (q : Option Request) :
    (s.setLane a q).freezeLevel = s.freezeLevel := rfl
@[simp] theorem State.setLane_config (s : State) (a : AgentIx) (q : Option Request) :
    (s.setLane a q).config = s.config := rfl
@[simp] theorem State.setLane_errors (s : State) (a : AgentIx) (q : Option Request) :
    (s.setLane a q).errors = s.errors := rfl
@[simp] theorem State.setLane_runState (s : State) (a : AgentIx) (q : Option Request) :
    (s.setLane a q).runState = s.runState := rfl
@[simp] theorem State.setLane_intEnable (s : State) (a : AgentIx) (q : Option Request) :
    (s.setLane a q).intEnable = s.intEnable := rfl
@[simp] theorem State.setLane_service (s : State) (a : AgentIx) (q : Option Request) :
    (s.setLane a q).service = s.service := rfl
@[simp] theorem State.setLane_csAsserted (s : State) (a : AgentIx) (q : Option Request) :
    (s.setLane a q).csAsserted = s.csAsserted := rfl
@[simp] theorem State.setLane_out (s : State) (a : AgentIx) (q : Option Request) : (s.setLane a q).out = s.out := rfl
@[simp] theorem State.setLane_freeDraws (s : State) (a : AgentIx) (q : Option Request) :
    (s.setLane a q).freeDraws = s.freeDraws := rfl
@[simp] theorem State.setLane_pending (s : State) (a : AgentIx) (q : Option Request) :
    (s.setLane a q).pending = s.pending := rfl

/-! ### setService -/

@[simp] theorem State.setService_inReset (s : State) (p : ServicePort) : (s.setService p).inReset = s.inReset := rfl
@[simp] theorem State.setService_grants (s : State) (p : ServicePort) : (s.setService p).grants = s.grants := rfl
@[simp] theorem State.setService_freeList (s : State) (p : ServicePort) : (s.setService p).freeList = s.freeList := rfl
@[simp] theorem State.setService_lanes (s : State) (p : ServicePort) : (s.setService p).lanes = s.lanes := rfl
@[simp] theorem State.setService_lanePointer (s : State) (p : ServicePort) :
    (s.setService p).lanePointer = s.lanePointer := rfl
@[simp] theorem State.setService_tracker (s : State) (p : ServicePort) : (s.setService p).tracker = s.tracker := rfl
@[simp] theorem State.setService_commandQueue (s : State) (p : ServicePort) :
    (s.setService p).commandQueue = s.commandQueue := rfl
@[simp] theorem State.setService_staging (s : State) (p : ServicePort) : (s.setService p).staging = s.staging := rfl
@[simp] theorem State.setService_pushRefused (s : State) (p : ServicePort) :
    (s.setService p).pushRefused = s.pushRefused := rfl
@[simp] theorem State.setService_responseQueue (s : State) (p : ServicePort) :
    (s.setService p).responseQueue = s.responseQueue := rfl
@[simp] theorem State.setService_reserved (s : State) (p : ServicePort) : (s.setService p).reserved = s.reserved := rfl
@[simp] theorem State.setService_processor (s : State) (p : ServicePort) :
    (s.setService p).processor = s.processor := rfl
@[simp] theorem State.setService_retire (s : State) (p : ServicePort) : (s.setService p).retire = s.retire := rfl
@[simp] theorem State.setService_clock (s : State) (p : ServicePort) : (s.setService p).clock = s.clock := rfl
@[simp] theorem State.setService_agents (s : State) (p : ServicePort) : (s.setService p).agents = s.agents := rfl
@[simp] theorem State.setService_faultSlots (s : State) (p : ServicePort) :
    (s.setService p).faultSlots = s.faultSlots := rfl
@[simp] theorem State.setService_faultSelect (s : State) (p : ServicePort) :
    (s.setService p).faultSelect = s.faultSelect := rfl
@[simp] theorem State.setService_ranges (s : State) (p : ServicePort) : (s.setService p).ranges = s.ranges := rfl
@[simp] theorem State.setService_freezeLevel (s : State) (p : ServicePort) :
    (s.setService p).freezeLevel = s.freezeLevel := rfl
@[simp] theorem State.setService_config (s : State) (p : ServicePort) : (s.setService p).config = s.config := rfl
@[simp] theorem State.setService_errors (s : State) (p : ServicePort) : (s.setService p).errors = s.errors := rfl
@[simp] theorem State.setService_runState (s : State) (p : ServicePort) : (s.setService p).runState = s.runState := rfl
@[simp] theorem State.setService_intEnable (s : State) (p : ServicePort) :
    (s.setService p).intEnable = s.intEnable := rfl
@[simp] theorem State.setService_service (s : State) (p : ServicePort) : (s.setService p).service = p := rfl
@[simp] theorem State.setService_csAsserted (s : State) (p : ServicePort) :
    (s.setService p).csAsserted = s.csAsserted := rfl
@[simp] theorem State.setService_out (s : State) (p : ServicePort) : (s.setService p).out = s.out := rfl
@[simp] theorem State.setService_freeDraws (s : State) (p : ServicePort) :
    (s.setService p).freeDraws = s.freeDraws := rfl
@[simp] theorem State.setService_pending (s : State) (p : ServicePort) : (s.setService p).pending = s.pending := rfl

/-! ### sendMiso -/

@[simp] theorem State.sendMiso_inReset (s : State) (b : Byte) : (s.sendMiso b).inReset = s.inReset := rfl
@[simp] theorem State.sendMiso_grants (s : State) (b : Byte) : (s.sendMiso b).grants = s.grants := rfl
@[simp] theorem State.sendMiso_freeList (s : State) (b : Byte) : (s.sendMiso b).freeList = s.freeList := rfl
@[simp] theorem State.sendMiso_lanes (s : State) (b : Byte) : (s.sendMiso b).lanes = s.lanes := rfl
@[simp] theorem State.sendMiso_lanePointer (s : State) (b : Byte) : (s.sendMiso b).lanePointer = s.lanePointer := rfl
@[simp] theorem State.sendMiso_tracker (s : State) (b : Byte) : (s.sendMiso b).tracker = s.tracker := rfl
@[simp] theorem State.sendMiso_commandQueue (s : State) (b : Byte) : (s.sendMiso b).commandQueue = s.commandQueue := rfl
@[simp] theorem State.sendMiso_staging (s : State) (b : Byte) : (s.sendMiso b).staging = s.staging := rfl
@[simp] theorem State.sendMiso_pushRefused (s : State) (b : Byte) : (s.sendMiso b).pushRefused = s.pushRefused := rfl
@[simp] theorem State.sendMiso_responseQueue (s : State) (b : Byte) :
    (s.sendMiso b).responseQueue = s.responseQueue := rfl
@[simp] theorem State.sendMiso_reserved (s : State) (b : Byte) : (s.sendMiso b).reserved = s.reserved := rfl
@[simp] theorem State.sendMiso_processor (s : State) (b : Byte) : (s.sendMiso b).processor = s.processor := rfl
@[simp] theorem State.sendMiso_retire (s : State) (b : Byte) : (s.sendMiso b).retire = s.retire := rfl
@[simp] theorem State.sendMiso_clock (s : State) (b : Byte) : (s.sendMiso b).clock = s.clock := rfl
@[simp] theorem State.sendMiso_agents (s : State) (b : Byte) : (s.sendMiso b).agents = s.agents := rfl
@[simp] theorem State.sendMiso_faultSlots (s : State) (b : Byte) : (s.sendMiso b).faultSlots = s.faultSlots := rfl
@[simp] theorem State.sendMiso_faultSelect (s : State) (b : Byte) : (s.sendMiso b).faultSelect = s.faultSelect := rfl
@[simp] theorem State.sendMiso_ranges (s : State) (b : Byte) : (s.sendMiso b).ranges = s.ranges := rfl
@[simp] theorem State.sendMiso_freezeLevel (s : State) (b : Byte) : (s.sendMiso b).freezeLevel = s.freezeLevel := rfl
@[simp] theorem State.sendMiso_config (s : State) (b : Byte) : (s.sendMiso b).config = s.config := rfl
@[simp] theorem State.sendMiso_errors (s : State) (b : Byte) : (s.sendMiso b).errors = s.errors := rfl
@[simp] theorem State.sendMiso_runState (s : State) (b : Byte) : (s.sendMiso b).runState = s.runState := rfl
@[simp] theorem State.sendMiso_intEnable (s : State) (b : Byte) : (s.sendMiso b).intEnable = s.intEnable := rfl
@[simp] theorem State.sendMiso_service (s : State) (b : Byte) : (s.sendMiso b).service = s.service := rfl
@[simp] theorem State.sendMiso_csAsserted (s : State) (b : Byte) : (s.sendMiso b).csAsserted = s.csAsserted := rfl
@[simp] theorem State.sendMiso_out (s : State) (b : Byte) : (s.sendMiso b).out = { s.out with miso := some b } := rfl
@[simp] theorem State.sendMiso_freeDraws (s : State) (b : Byte) : (s.sendMiso b).freeDraws = s.freeDraws := rfl
@[simp] theorem State.sendMiso_pending (s : State) (b : Byte) : (s.sendMiso b).pending = s.pending := rfl

/-! ### setRange -/

@[simp] theorem State.setRange_inReset (s : State) (x : RangeIx) (v : ExclusionRange) :
    (s.setRange x v).inReset = s.inReset := rfl
@[simp] theorem State.setRange_grants (s : State) (x : RangeIx) (v : ExclusionRange) :
    (s.setRange x v).grants = s.grants := rfl
@[simp] theorem State.setRange_freeList (s : State) (x : RangeIx) (v : ExclusionRange) :
    (s.setRange x v).freeList = s.freeList := rfl
@[simp] theorem State.setRange_lanes (s : State) (x : RangeIx) (v : ExclusionRange) :
    (s.setRange x v).lanes = s.lanes := rfl
@[simp] theorem State.setRange_lanePointer (s : State) (x : RangeIx) (v : ExclusionRange) :
    (s.setRange x v).lanePointer = s.lanePointer := rfl
@[simp] theorem State.setRange_tracker (s : State) (x : RangeIx) (v : ExclusionRange) :
    (s.setRange x v).tracker = s.tracker := rfl
@[simp] theorem State.setRange_commandQueue (s : State) (x : RangeIx) (v : ExclusionRange) :
    (s.setRange x v).commandQueue = s.commandQueue := rfl
@[simp] theorem State.setRange_staging (s : State) (x : RangeIx) (v : ExclusionRange) :
    (s.setRange x v).staging = s.staging := rfl
@[simp] theorem State.setRange_pushRefused (s : State) (x : RangeIx) (v : ExclusionRange) :
    (s.setRange x v).pushRefused = s.pushRefused := rfl
@[simp] theorem State.setRange_responseQueue (s : State) (x : RangeIx) (v : ExclusionRange) :
    (s.setRange x v).responseQueue = s.responseQueue := rfl
@[simp] theorem State.setRange_reserved (s : State) (x : RangeIx) (v : ExclusionRange) :
    (s.setRange x v).reserved = s.reserved := rfl
@[simp] theorem State.setRange_processor (s : State) (x : RangeIx) (v : ExclusionRange) :
    (s.setRange x v).processor = s.processor := rfl
@[simp] theorem State.setRange_retire (s : State) (x : RangeIx) (v : ExclusionRange) :
    (s.setRange x v).retire = s.retire := rfl
@[simp] theorem State.setRange_clock (s : State) (x : RangeIx) (v : ExclusionRange) :
    (s.setRange x v).clock = s.clock := rfl
@[simp] theorem State.setRange_agents (s : State) (x : RangeIx) (v : ExclusionRange) :
    (s.setRange x v).agents = s.agents := rfl
@[simp] theorem State.setRange_faultSlots (s : State) (x : RangeIx) (v : ExclusionRange) :
    (s.setRange x v).faultSlots = s.faultSlots := rfl
@[simp] theorem State.setRange_faultSelect (s : State) (x : RangeIx) (v : ExclusionRange) :
    (s.setRange x v).faultSelect = s.faultSelect := rfl
@[simp] theorem State.setRange_ranges (s : State) (x : RangeIx) (v : ExclusionRange) :
    (s.setRange x v).ranges = s.ranges.set x v := rfl
@[simp] theorem State.setRange_freezeLevel (s : State) (x : RangeIx) (v : ExclusionRange) :
    (s.setRange x v).freezeLevel = s.freezeLevel := rfl
@[simp] theorem State.setRange_config (s : State) (x : RangeIx) (v : ExclusionRange) :
    (s.setRange x v).config = s.config := rfl
@[simp] theorem State.setRange_errors (s : State) (x : RangeIx) (v : ExclusionRange) :
    (s.setRange x v).errors = s.errors := rfl
@[simp] theorem State.setRange_runState (s : State) (x : RangeIx) (v : ExclusionRange) :
    (s.setRange x v).runState = s.runState := rfl
@[simp] theorem State.setRange_intEnable (s : State) (x : RangeIx) (v : ExclusionRange) :
    (s.setRange x v).intEnable = s.intEnable := rfl
@[simp] theorem State.setRange_service (s : State) (x : RangeIx) (v : ExclusionRange) :
    (s.setRange x v).service = s.service := rfl
@[simp] theorem State.setRange_csAsserted (s : State) (x : RangeIx) (v : ExclusionRange) :
    (s.setRange x v).csAsserted = s.csAsserted := rfl
@[simp] theorem State.setRange_out (s : State) (x : RangeIx) (v : ExclusionRange) : (s.setRange x v).out = s.out := rfl
@[simp] theorem State.setRange_freeDraws (s : State) (x : RangeIx) (v : ExclusionRange) :
    (s.setRange x v).freeDraws = s.freeDraws := rfl
@[simp] theorem State.setRange_pending (s : State) (x : RangeIx) (v : ExclusionRange) :
    (s.setRange x v).pending = s.pending := rfl

/-! ### recordError -/

@[simp] theorem recordError_inReset (s : State) (c : ErrorClass) (d : Nat) :
    (recordError c d s).inReset = s.inReset := rfl
@[simp] theorem recordError_grants (s : State) (c : ErrorClass) (d : Nat) : (recordError c d s).grants = s.grants := rfl
@[simp] theorem recordError_freeList (s : State) (c : ErrorClass) (d : Nat) :
    (recordError c d s).freeList = s.freeList := rfl
@[simp] theorem recordError_lanes (s : State) (c : ErrorClass) (d : Nat) : (recordError c d s).lanes = s.lanes := rfl
@[simp] theorem recordError_lanePointer (s : State) (c : ErrorClass) (d : Nat) :
    (recordError c d s).lanePointer = s.lanePointer := rfl
@[simp] theorem recordError_tracker (s : State) (c : ErrorClass) (d : Nat) :
    (recordError c d s).tracker = s.tracker := rfl
@[simp] theorem recordError_commandQueue (s : State) (c : ErrorClass) (d : Nat) :
    (recordError c d s).commandQueue = s.commandQueue := rfl
@[simp] theorem recordError_staging (s : State) (c : ErrorClass) (d : Nat) :
    (recordError c d s).staging = s.staging := rfl
@[simp] theorem recordError_pushRefused (s : State) (c : ErrorClass) (d : Nat) :
    (recordError c d s).pushRefused = s.pushRefused := rfl
@[simp] theorem recordError_responseQueue (s : State) (c : ErrorClass) (d : Nat) :
    (recordError c d s).responseQueue = s.responseQueue := rfl
@[simp] theorem recordError_reserved (s : State) (c : ErrorClass) (d : Nat) :
    (recordError c d s).reserved = s.reserved := rfl
@[simp] theorem recordError_processor (s : State) (c : ErrorClass) (d : Nat) :
    (recordError c d s).processor = s.processor := rfl
@[simp] theorem recordError_retire (s : State) (c : ErrorClass) (d : Nat) : (recordError c d s).retire = s.retire := rfl
@[simp] theorem recordError_clock (s : State) (c : ErrorClass) (d : Nat) : (recordError c d s).clock = s.clock := rfl
@[simp] theorem recordError_agents (s : State) (c : ErrorClass) (d : Nat) : (recordError c d s).agents = s.agents := rfl
@[simp] theorem recordError_faultSlots (s : State) (c : ErrorClass) (d : Nat) :
    (recordError c d s).faultSlots = s.faultSlots := rfl
@[simp] theorem recordError_faultSelect (s : State) (c : ErrorClass) (d : Nat) :
    (recordError c d s).faultSelect = s.faultSelect := rfl
@[simp] theorem recordError_ranges (s : State) (c : ErrorClass) (d : Nat) : (recordError c d s).ranges = s.ranges := rfl
@[simp] theorem recordError_freezeLevel (s : State) (c : ErrorClass) (d : Nat) :
    (recordError c d s).freezeLevel = s.freezeLevel := rfl
@[simp] theorem recordError_config (s : State) (c : ErrorClass) (d : Nat) : (recordError c d s).config = s.config := rfl
@[simp] theorem recordError_errors (s : State) (c : ErrorClass) (d : Nat) :
    (recordError c d s).errors = s.errors.add c d := rfl
@[simp] theorem recordError_runState (s : State) (c : ErrorClass) (d : Nat) :
    (recordError c d s).runState = if s.config.severity c = .fatal then .stopped else s.runState := rfl
@[simp] theorem recordError_intEnable (s : State) (c : ErrorClass) (d : Nat) :
    (recordError c d s).intEnable = s.intEnable := rfl
@[simp] theorem recordError_service (s : State) (c : ErrorClass) (d : Nat) :
    (recordError c d s).service = s.service := rfl
@[simp] theorem recordError_csAsserted (s : State) (c : ErrorClass) (d : Nat) :
    (recordError c d s).csAsserted = s.csAsserted := rfl
@[simp] theorem recordError_out (s : State) (c : ErrorClass) (d : Nat) : (recordError c d s).out = s.out := rfl
@[simp] theorem recordError_freeDraws (s : State) (c : ErrorClass) (d : Nat) :
    (recordError c d s).freeDraws = s.freeDraws := rfl
@[simp] theorem recordError_pending (s : State) (c : ErrorClass) (d : Nat) :
    (recordError c d s).pending = s.pending := rfl

/-! ### purgeEffects -/

@[simp] theorem purgeEffects_inReset (s : State) : (purgeEffects s).inReset = s.inReset := rfl
@[simp] theorem purgeEffects_grants (s : State) : (purgeEffects s).grants = s.grants := rfl
@[simp] theorem purgeEffects_freeList (s : State) : (purgeEffects s).freeList = s.freeList := rfl
@[simp] theorem purgeEffects_lanes (s : State) : (purgeEffects s).lanes = s.lanes := rfl
@[simp] theorem purgeEffects_lanePointer (s : State) : (purgeEffects s).lanePointer = s.lanePointer := rfl
@[simp] theorem purgeEffects_tracker (s : State) : (purgeEffects s).tracker = s.tracker := rfl
@[simp] theorem purgeEffects_commandQueue (s : State) : (purgeEffects s).commandQueue = s.commandQueue := rfl
@[simp] theorem purgeEffects_staging (s : State) : (purgeEffects s).staging = s.staging := rfl
@[simp] theorem purgeEffects_pushRefused (s : State) : (purgeEffects s).pushRefused = s.pushRefused := rfl
@[simp] theorem purgeEffects_responseQueue (s : State) : (purgeEffects s).responseQueue = s.responseQueue := rfl
@[simp] theorem purgeEffects_reserved (s : State) : (purgeEffects s).reserved = s.reserved := rfl
@[simp] theorem purgeEffects_processor (s : State) : (purgeEffects s).processor = s.processor := rfl
@[simp] theorem purgeEffects_retire (s : State) : (purgeEffects s).retire = s.retire := rfl
@[simp] theorem purgeEffects_clock (s : State) : (purgeEffects s).clock = s.clock := rfl
@[simp] theorem purgeEffects_agents (s : State) : (purgeEffects s).agents = s.agents := rfl
@[simp] theorem purgeEffects_faultSlots (s : State) : (purgeEffects s).faultSlots = s.faultSlots := rfl
@[simp] theorem purgeEffects_faultSelect (s : State) : (purgeEffects s).faultSelect = s.faultSelect := rfl
@[simp] theorem purgeEffects_ranges (s : State) :
    (purgeEffects s).ranges = Vector.replicate 4 { enabled := false, base := 0, length := 0 } := rfl
@[simp] theorem purgeEffects_freezeLevel (s : State) : (purgeEffects s).freezeLevel = 0 := rfl
@[simp] theorem purgeEffects_config (s : State) : (purgeEffects s).config = s.config := rfl
@[simp] theorem purgeEffects_errors (s : State) : (purgeEffects s).errors = s.errors := rfl
@[simp] theorem purgeEffects_runState (s : State) : (purgeEffects s).runState = s.runState := rfl
@[simp] theorem purgeEffects_intEnable (s : State) : (purgeEffects s).intEnable = s.intEnable := rfl
@[simp] theorem purgeEffects_service (s : State) : (purgeEffects s).service = s.service := rfl
@[simp] theorem purgeEffects_csAsserted (s : State) : (purgeEffects s).csAsserted = s.csAsserted := rfl
@[simp] theorem purgeEffects_out (s : State) : (purgeEffects s).out = s.out := rfl
@[simp] theorem purgeEffects_freeDraws (s : State) : (purgeEffects s).freeDraws = s.freeDraws := rfl
@[simp] theorem purgeEffects_pending (s : State) : (purgeEffects s).pending = s.pending := rfl

/-! ### clearPushRefused -/

@[simp] theorem clearPushRefused_inReset (s : State) : (clearPushRefused s).inReset = s.inReset := rfl
@[simp] theorem clearPushRefused_grants (s : State) : (clearPushRefused s).grants = s.grants := rfl
@[simp] theorem clearPushRefused_freeList (s : State) : (clearPushRefused s).freeList = s.freeList := rfl
@[simp] theorem clearPushRefused_lanes (s : State) : (clearPushRefused s).lanes = s.lanes := rfl
@[simp] theorem clearPushRefused_lanePointer (s : State) : (clearPushRefused s).lanePointer = s.lanePointer := rfl
@[simp] theorem clearPushRefused_tracker (s : State) : (clearPushRefused s).tracker = s.tracker := rfl
@[simp] theorem clearPushRefused_commandQueue (s : State) : (clearPushRefused s).commandQueue = s.commandQueue := rfl
@[simp] theorem clearPushRefused_staging (s : State) : (clearPushRefused s).staging = s.staging := rfl
@[simp] theorem clearPushRefused_pushRefused (s : State) : (clearPushRefused s).pushRefused = false := rfl
@[simp] theorem clearPushRefused_responseQueue (s : State) : (clearPushRefused s).responseQueue = s.responseQueue := rfl
@[simp] theorem clearPushRefused_reserved (s : State) : (clearPushRefused s).reserved = s.reserved := rfl
@[simp] theorem clearPushRefused_processor (s : State) : (clearPushRefused s).processor = s.processor := rfl
@[simp] theorem clearPushRefused_retire (s : State) : (clearPushRefused s).retire = s.retire := rfl
@[simp] theorem clearPushRefused_clock (s : State) : (clearPushRefused s).clock = s.clock := rfl
@[simp] theorem clearPushRefused_agents (s : State) : (clearPushRefused s).agents = s.agents := rfl
@[simp] theorem clearPushRefused_faultSlots (s : State) : (clearPushRefused s).faultSlots = s.faultSlots := rfl
@[simp] theorem clearPushRefused_faultSelect (s : State) : (clearPushRefused s).faultSelect = s.faultSelect := rfl
@[simp] theorem clearPushRefused_ranges (s : State) : (clearPushRefused s).ranges = s.ranges := rfl
@[simp] theorem clearPushRefused_freezeLevel (s : State) : (clearPushRefused s).freezeLevel = s.freezeLevel := rfl
@[simp] theorem clearPushRefused_config (s : State) : (clearPushRefused s).config = s.config := rfl
@[simp] theorem clearPushRefused_errors (s : State) : (clearPushRefused s).errors = s.errors := rfl
@[simp] theorem clearPushRefused_runState (s : State) : (clearPushRefused s).runState = s.runState := rfl
@[simp] theorem clearPushRefused_intEnable (s : State) : (clearPushRefused s).intEnable = s.intEnable := rfl
@[simp] theorem clearPushRefused_service (s : State) : (clearPushRefused s).service = s.service := rfl
@[simp] theorem clearPushRefused_csAsserted (s : State) : (clearPushRefused s).csAsserted = s.csAsserted := rfl
@[simp] theorem clearPushRefused_out (s : State) : (clearPushRefused s).out = s.out := rfl
@[simp] theorem clearPushRefused_freeDraws (s : State) : (clearPushRefused s).freeDraws = s.freeDraws := rfl
@[simp] theorem clearPushRefused_pending (s : State) : (clearPushRefused s).pending = s.pending := rfl

/-! ### abandonEntries -/

@[simp] theorem abandonEntries_inReset (s : State) (w : Entry → Bool) :
    (abandonEntries w s).inReset = s.inReset := rfl
@[simp] theorem abandonEntries_grants (s : State) (w : Entry → Bool) : (abandonEntries w s).grants = s.grants := rfl
@[simp] theorem abandonEntries_freeList (s : State) (w : Entry → Bool) :
    (abandonEntries w s).freeList = s.freeList := rfl
@[simp] theorem abandonEntries_lanes (s : State) (w : Entry → Bool) : (abandonEntries w s).lanes = s.lanes := rfl
@[simp] theorem abandonEntries_lanePointer (s : State) (w : Entry → Bool) :
    (abandonEntries w s).lanePointer = s.lanePointer := rfl
@[simp] theorem abandonEntries_tracker (s : State) (w : Entry → Bool) :
    (abandonEntries w s).tracker = s.tracker.map (fun e => if w e then e.abandon else e) := rfl
@[simp] theorem abandonEntries_commandQueue (s : State) (w : Entry → Bool) :
    (abandonEntries w s).commandQueue = s.commandQueue := rfl
@[simp] theorem abandonEntries_staging (s : State) (w : Entry → Bool) :
    (abandonEntries w s).staging = s.staging := rfl
@[simp] theorem abandonEntries_pushRefused (s : State) (w : Entry → Bool) :
    (abandonEntries w s).pushRefused = s.pushRefused := rfl
@[simp] theorem abandonEntries_responseQueue (s : State) (w : Entry → Bool) :
    (abandonEntries w s).responseQueue = s.responseQueue := rfl
@[simp] theorem abandonEntries_reserved (s : State) (w : Entry → Bool) :
    (abandonEntries w s).reserved = s.reserved := rfl
@[simp] theorem abandonEntries_processor (s : State) (w : Entry → Bool) :
    (abandonEntries w s).processor = s.processor := rfl
@[simp] theorem abandonEntries_retire (s : State) (w : Entry → Bool) : (abandonEntries w s).retire = s.retire := rfl
@[simp] theorem abandonEntries_clock (s : State) (w : Entry → Bool) : (abandonEntries w s).clock = s.clock := rfl
@[simp] theorem abandonEntries_agents (s : State) (w : Entry → Bool) : (abandonEntries w s).agents = s.agents := rfl
@[simp] theorem abandonEntries_faultSlots (s : State) (w : Entry → Bool) :
    (abandonEntries w s).faultSlots = s.faultSlots := rfl
@[simp] theorem abandonEntries_faultSelect (s : State) (w : Entry → Bool) :
    (abandonEntries w s).faultSelect = s.faultSelect := rfl
@[simp] theorem abandonEntries_ranges (s : State) (w : Entry → Bool) : (abandonEntries w s).ranges = s.ranges := rfl
@[simp] theorem abandonEntries_freezeLevel (s : State) (w : Entry → Bool) :
    (abandonEntries w s).freezeLevel = s.freezeLevel := rfl
@[simp] theorem abandonEntries_config (s : State) (w : Entry → Bool) : (abandonEntries w s).config = s.config := rfl
@[simp] theorem abandonEntries_errors (s : State) (w : Entry → Bool) : (abandonEntries w s).errors = s.errors := rfl
@[simp] theorem abandonEntries_runState (s : State) (w : Entry → Bool) :
    (abandonEntries w s).runState = s.runState := rfl
@[simp] theorem abandonEntries_intEnable (s : State) (w : Entry → Bool) :
    (abandonEntries w s).intEnable = s.intEnable := rfl
@[simp] theorem abandonEntries_service (s : State) (w : Entry → Bool) :
    (abandonEntries w s).service = s.service := rfl
@[simp] theorem abandonEntries_csAsserted (s : State) (w : Entry → Bool) :
    (abandonEntries w s).csAsserted = s.csAsserted := rfl
@[simp] theorem abandonEntries_out (s : State) (w : Entry → Bool) : (abandonEntries w s).out = s.out := rfl
@[simp] theorem abandonEntries_freeDraws (s : State) (w : Entry → Bool) :
    (abandonEntries w s).freeDraws = s.freeDraws := rfl
@[simp] theorem abandonEntries_pending (s : State) (w : Entry → Bool) :
    (abandonEntries w s).pending = s.pending := rfl

/-! ### State.respondAll -/

@[simp] theorem State.respondAll_inReset (s : State) (rs : List LaneResponse) :
    (s.respondAll rs).inReset = s.inReset := rfl
@[simp] theorem State.respondAll_grants (s : State) (rs : List LaneResponse) :
    (s.respondAll rs).grants = s.grants := rfl
@[simp] theorem State.respondAll_freeList (s : State) (rs : List LaneResponse) :
    (s.respondAll rs).freeList = s.freeList := rfl
@[simp] theorem State.respondAll_lanes (s : State) (rs : List LaneResponse) : (s.respondAll rs).lanes = s.lanes := rfl
@[simp] theorem State.respondAll_lanePointer (s : State) (rs : List LaneResponse) :
    (s.respondAll rs).lanePointer = s.lanePointer := rfl
@[simp] theorem State.respondAll_tracker (s : State) (rs : List LaneResponse) :
    (s.respondAll rs).tracker = s.tracker := rfl
@[simp] theorem State.respondAll_commandQueue (s : State) (rs : List LaneResponse) :
    (s.respondAll rs).commandQueue = s.commandQueue := rfl
@[simp] theorem State.respondAll_staging (s : State) (rs : List LaneResponse) :
    (s.respondAll rs).staging = s.staging := rfl
@[simp] theorem State.respondAll_pushRefused (s : State) (rs : List LaneResponse) :
    (s.respondAll rs).pushRefused = s.pushRefused := rfl
@[simp] theorem State.respondAll_responseQueue (s : State) (rs : List LaneResponse) :
    (s.respondAll rs).responseQueue = s.responseQueue := rfl
@[simp] theorem State.respondAll_reserved (s : State) (rs : List LaneResponse) :
    (s.respondAll rs).reserved = s.reserved := rfl
@[simp] theorem State.respondAll_processor (s : State) (rs : List LaneResponse) :
    (s.respondAll rs).processor = s.processor := rfl
@[simp] theorem State.respondAll_retire (s : State) (rs : List LaneResponse) :
    (s.respondAll rs).retire = s.retire := rfl
@[simp] theorem State.respondAll_clock (s : State) (rs : List LaneResponse) : (s.respondAll rs).clock = s.clock := rfl
@[simp] theorem State.respondAll_agents (s : State) (rs : List LaneResponse) :
    (s.respondAll rs).agents = s.agents := rfl
@[simp] theorem State.respondAll_faultSlots (s : State) (rs : List LaneResponse) :
    (s.respondAll rs).faultSlots = s.faultSlots := rfl
@[simp] theorem State.respondAll_faultSelect (s : State) (rs : List LaneResponse) :
    (s.respondAll rs).faultSelect = s.faultSelect := rfl
@[simp] theorem State.respondAll_ranges (s : State) (rs : List LaneResponse) :
    (s.respondAll rs).ranges = s.ranges := rfl
@[simp] theorem State.respondAll_freezeLevel (s : State) (rs : List LaneResponse) :
    (s.respondAll rs).freezeLevel = s.freezeLevel := rfl
@[simp] theorem State.respondAll_config (s : State) (rs : List LaneResponse) :
    (s.respondAll rs).config = s.config := rfl
@[simp] theorem State.respondAll_errors (s : State) (rs : List LaneResponse) :
    (s.respondAll rs).errors = s.errors := rfl
@[simp] theorem State.respondAll_runState (s : State) (rs : List LaneResponse) :
    (s.respondAll rs).runState = s.runState := rfl
@[simp] theorem State.respondAll_intEnable (s : State) (rs : List LaneResponse) :
    (s.respondAll rs).intEnable = s.intEnable := rfl
@[simp] theorem State.respondAll_service (s : State) (rs : List LaneResponse) :
    (s.respondAll rs).service = s.service := rfl
@[simp] theorem State.respondAll_csAsserted (s : State) (rs : List LaneResponse) :
    (s.respondAll rs).csAsserted = s.csAsserted := rfl
@[simp] theorem State.respondAll_out (s : State) (rs : List LaneResponse) :
    (s.respondAll rs).out = { s.out with responses := s.out.responses ++ rs } := rfl
@[simp] theorem State.respondAll_freeDraws (s : State) (rs : List LaneResponse) :
    (s.respondAll rs).freeDraws = s.freeDraws := rfl
@[simp] theorem State.respondAll_pending (s : State) (rs : List LaneResponse) :
    (s.respondAll rs).pending = s.pending := rfl

end Sys2Proof.Machine
end

