-- ==== Sys2Proof/Laws/GrantTable.lean ====
section
/-! SUPPORT. The laws of the grant table: a write is read back and leaves every other slot alone, and every operation keeps
the canonical form. -/

namespace Sys2Proof.Machine

/-! ## Reading back -/

theorem grantAt_nil (i : SlotIx) : grantAt [] i = freeRecord 0 := rfl

theorem grantAt_filter (t : GrantTable) (i j : SlotIx) :
    grantAt (t.filter (fun p => p.1 != i)) j = if j = i then freeRecord 0 else grantAt t j := by
  induction t with
  | nil => simp [grantAt]
  | cons p rest ih =>
    obtain ⟨k, g⟩ := p
    by_cases hk : k = i
    · subst hk
      have : grantAt ((k, g) :: rest) j = if k = j then g else grantAt rest j := rfl
      simp only [List.filter_cons, bne_self_eq_false, Bool.false_eq_true, if_false, ih, this]
      by_cases hj : j = k
      · simp [hj]
      · simp [hj, Ne.symm hj]
    · have h1 : ((k, g) : SlotIx × Grant).1 != i := by simp [hk]
      simp only [List.filter_cons, h1, if_true, grantAt, ih]
      by_cases hj : k = j
      · subst hj; simp [hk]
      · simp [hj]

theorem grantAt_insertSlot (t : GrantTable) (i j : SlotIx) (g : Grant) (h : ∀ p ∈ t, p.1 ≠ i) :
    grantAt (insertSlot t i g) j = if j = i then g else grantAt t j := by
  induction t with
  | nil =>
    by_cases hj : j = i
    · simp [insertSlot, grantAt, hj]
    · simp [insertSlot, grantAt, hj, Ne.symm hj]
  | cons p rest ih =>
    obtain ⟨k, r⟩ := p
    have hk : k ≠ i := h (k, r) List.mem_cons_self
    have ih := ih (fun p hp => h p (List.mem_cons_of_mem _ hp))
    unfold insertSlot
    split
    · by_cases hj : j = i
      · simp [grantAt, hj]
      · simp [grantAt, hj, Ne.symm hj]
    · by_cases hj : k = j
      · subst hj; simp [grantAt, hk]
      · simp [grantAt, hj, ih]

theorem ne_of_mem_filter {t : GrantTable} {i : SlotIx} : ∀ p ∈ t.filter (fun p => p.1 != i), p.1 ≠ i := by
  intro p hp
  simpa using (List.mem_filter.mp hp).2

/-- A write of a slot's record is read back, and every other slot reads as before. -/
theorem grantAt_putGrant (t : GrantTable) (i j : SlotIx) (g : Grant) :
    grantAt (putGrant t i g) j = if j = i then g else grantAt t j := by
  unfold putGrant
  split
  · rename_i h; rw [grantAt_filter]; simp [h]
  · rw [grantAt_insertSlot _ _ _ _ ne_of_mem_filter, grantAt_filter]
    by_cases hj : j = i <;> simp [hj]

/-- A slot that does not read as an unlisted one is listed. -/
theorem mem_of_grantAt_ne {t : GrantTable} {i : SlotIx} (h : grantAt t i ≠ freeRecord 0) : i ∈ t.map Prod.fst := by
  induction t with
  | nil => exact absurd rfl h
  | cons p rest ih =>
    obtain ⟨k, g⟩ := p
    by_cases hk : k = i
    · simp [hk]
    · simp only [grantAt, if_neg hk] at h
      simpa using Or.inr (by simpa using ih h)

theorem grantAt_foldr_putGrant (f : SlotIx → Grant) (ks : List SlotIx) (j : SlotIx) :
    grantAt (ks.foldr (fun i acc => putGrant acc i (f i)) []) j = if j ∈ ks then f j else freeRecord 0 := by
  induction ks with
  | nil => simp [grantAt]
  | cons k rest ih =>
    simp only [List.foldr_cons, grantAt_putGrant, ih, List.mem_cons]
    by_cases hj : j = k
    · simp [hj]
    · simp [hj]

/-- A rewriting that leaves an unlisted slot as it is rewrites every slot. -/
theorem grantAt_mapGrants (f : SlotIx → Grant → Grant) (t : GrantTable) (j : SlotIx)
    (h : f j (freeRecord 0) = freeRecord 0) : grantAt (mapGrants f t) j = f j (grantAt t j) := by
  unfold mapGrants
  rw [grantAt_foldr_putGrant (fun i => f i (grantAt t i))]
  split
  · rfl
  · rename_i hj
    have : grantAt t j = freeRecord 0 := by
      by_contra hne; exact hj (mem_of_grantAt_ne hne)
    rw [this, h]

/-! ## The canonical form -/

theorem wf_iff (t : GrantTable) :
    t.wf = true ↔ (t.map Prod.fst).Pairwise (· < ·) ∧ ∀ p ∈ t, p.2 ≠ freeRecord 0 := by
  induction t with
  | nil => simp [GrantTable.wf]
  | cons p rest ih =>
    obtain ⟨k, g⟩ := p
    simp only [GrantTable.wf, Bool.and_eq_true, ih, List.all_eq_true, decide_eq_true_eq, bne_iff_ne, ne_eq,
      List.map_cons, List.pairwise_cons, List.mem_map, List.mem_cons]
    constructor
    · rintro ⟨⟨h1, h2⟩, h3, h4⟩
      refine ⟨⟨?_, h3⟩, ?_⟩
      · rintro a ⟨p, hp, rfl⟩; exact h2 p hp
      · rintro p (rfl | hp)
        · exact h1
        · exact h4 p hp
    · rintro ⟨⟨h1, h2⟩, h3⟩
      exact ⟨⟨h3 (k, g) (Or.inl rfl), fun p hp => h1 p.1 ⟨p, hp, rfl⟩⟩, h2, fun p hp => h3 p (Or.inr hp)⟩

theorem mem_insertSlot {t : GrantTable} {i : SlotIx} {g : Grant} {p : SlotIx × Grant} :
    p ∈ insertSlot t i g ↔ p = (i, g) ∨ p ∈ t := by
  induction t with
  | nil => simp [insertSlot]
  | cons q rest ih =>
    obtain ⟨k, r⟩ := q
    unfold insertSlot
    split
    · simp
    · simp only [List.mem_cons, ih]; tauto

theorem pairwise_insertSlot {t : GrantTable} {i : SlotIx} {g : Grant} (h : ∀ p ∈ t, p.1 ≠ i)
    (hs : (t.map Prod.fst).Pairwise (· < ·)) : ((insertSlot t i g).map Prod.fst).Pairwise (· < ·) := by
  induction t with
  | nil => simp [insertSlot]
  | cons q rest ih =>
    obtain ⟨k, r⟩ := q
    simp only [List.map_cons, List.pairwise_cons, List.mem_map] at hs
    unfold insertSlot
    split
    · rename_i hik
      simp only [List.map_cons, List.pairwise_cons, List.mem_cons, List.mem_map]
      refine ⟨?_, ?_, hs.2⟩
      · rintro a (rfl | ⟨p, hp, rfl⟩)
        · exact hik
        · exact lt_trans hik (hs.1 _ ⟨p, hp, rfl⟩)
      · rintro a ⟨p, hp, rfl⟩; exact hs.1 _ ⟨p, hp, rfl⟩
    · rename_i hik
      simp only [List.map_cons, List.pairwise_cons, List.mem_map]
      refine ⟨?_, ih (fun p hp => h p (by simp [hp])) hs.2⟩
      rintro a ⟨p, hp, rfl⟩
      rcases mem_insertSlot.mp hp with rfl | hp
      · exact lt_of_le_of_ne (not_lt.mp hik) (h (k, r) (by simp))
      · exact hs.1 _ ⟨p, hp, rfl⟩

/-- A write keeps the canonical form. -/
theorem wf_putGrant {t : GrantTable} (i : SlotIx) (g : Grant) (h : t.wf = true) : (putGrant t i g).wf = true := by
  have hf : ((t.filter (fun p => p.1 != i)).map Prod.fst).Pairwise (· < ·) :=
    ((wf_iff t).mp h).1.sublist (List.filter_sublist.map _)
  have hn : ∀ p ∈ t.filter (fun p => p.1 != i), p.2 ≠ freeRecord 0 :=
    fun p hp => ((wf_iff t).mp h).2 p (List.mem_filter.mp hp).1
  unfold putGrant
  split
  · exact (wf_iff _).mpr ⟨hf, hn⟩
  · rename_i hg
    refine (wf_iff _).mpr ⟨pairwise_insertSlot ne_of_mem_filter hf, ?_⟩
    intro p hp
    rcases mem_insertSlot.mp hp with rfl | hp
    · exact hg
    · exact hn p hp

theorem wf_foldr_putGrant (f : SlotIx → Grant) (ks : List SlotIx) :
    (ks.foldr (fun i acc => putGrant acc i (f i)) ([] : GrantTable)).wf = true := by
  induction ks with
  | nil => rfl
  | cons k rest ih => exact wf_putGrant _ _ ih

/-- A rewriting of every slot gives a table in canonical form. -/
theorem wf_mapGrants (f : SlotIx → Grant → Grant) (t : GrantTable) : (mapGrants f t).wf = true :=
  wf_foldr_putGrant (fun i => f i (grantAt t i)) _

/-- Tables in canonical form that read alike are equal. -/
theorem grantTable_ext {t u : GrantTable} (ht : t.wf = true) (hu : u.wf = true) (h : ∀ i, grantAt t i = grantAt u i) :
    t = u := by
  have mem : ∀ {t : GrantTable}, t.wf = true → ∀ p : SlotIx × Grant, p ∈ t ↔ grantAt t p.1 = p.2 ∧ p.2 ≠ freeRecord 0 := by
    intro t ht p
    induction t with
    | nil =>
      simp only [List.not_mem_nil, grantAt_nil, false_iff, not_and, not_not]
      exact fun h => h.symm
    | cons q rest ih =>
      obtain ⟨k, g⟩ := q
      obtain ⟨i, r⟩ := p
      have hw := (wf_iff _).mp ht
      have hr : GrantTable.wf rest = true := by simp [GrantTable.wf] at ht; exact ht.2
      have hg : g ≠ freeRecord 0 := hw.2 (k, g) (by simp)
      simp only [List.mem_cons, Prod.mk.injEq, grantAt]
      by_cases hk : k = i
      · subst hk
        have hnot : (k, r) ∉ rest := by
          intro hm
          have hp : (k :: rest.map Prod.fst).Pairwise (· < ·) := hw.1
          exact lt_irrefl _ ((List.pairwise_cons.mp hp).1 k (List.mem_map.mpr ⟨_, hm, rfl⟩))
        simp [hnot]
        constructor
        · rintro rfl; exact ⟨rfl, hg⟩
        · rintro ⟨rfl, _⟩; rfl
      · simp only [if_neg hk]
        rw [ih hr]
        simp [Ne.symm hk]
  have perm : t.Perm u := by
    rw [List.perm_ext_iff_of_nodup]
    · intro p; rw [mem ht, mem hu, h]
    · exact List.Nodup.of_map _ (((wf_iff t).mp ht).1.imp (fun h => ne_of_lt h))
    · exact List.Nodup.of_map _ (((wf_iff u).mp hu).1.imp (fun h => ne_of_lt h))
  refine List.Perm.eq_of_pairwise (le := fun (a b : SlotIx × Grant) => a.1 < b.1) ?_ ?_ ?_ perm
  · intro a b _ _ h1 h2; exact absurd (lt_trans h1 h2) (lt_irrefl _)
  · exact List.pairwise_map.mp ((wf_iff t).mp ht).1
  · exact List.pairwise_map.mp ((wf_iff u).mp hu).1

/-! ## The same of states -/

theorem State.grant_eq (s : State) (i : SlotIx) : s.grant i = grantAt s.grants i := rfl

theorem State.grant_congr {s t : State} (h : s.grants = t.grants) : s.grant = t.grant := by
  funext i; simp [State.grant, h]

theorem State.grant_setGrant (s : State) (i j : SlotIx) (g : Grant) :
    (s.setGrant i g).grant j = if j = i then g else s.grant j := grantAt_putGrant _ _ _ _

@[simp] theorem State.grant_setGrant_same (s : State) (i : SlotIx) (g : Grant) : (s.setGrant i g).grant i = g := by
  simp [State.grant_setGrant]

theorem State.grant_setGrant_ne (s : State) {i j : SlotIx} (g : Grant) (h : j ≠ i) :
    (s.setGrant i g).grant j = s.grant j := by
  simp [State.grant_setGrant, h]

theorem State.grant_updateGrants (s : State) (f : SlotIx → Grant → Grant) (j : SlotIx)
    (h : f j (freeRecord 0) = freeRecord 0) : (s.updateGrants f).grant j = f j (s.grant j) :=
  grantAt_mapGrants _ _ _ h

theorem State.mem_slots {s : State} {i : SlotIx} (h : (s.grant i).state ≠ .free) : i ∈ s.slots :=
  mem_of_grantAt_ne (fun he => h (by rw [State.grant_eq, he]; rfl))

@[simp] theorem State.mem_nonFree {s : State} {i : SlotIx} : i ∈ s.nonFree ↔ (s.grant i).state ≠ .free := by
  simp only [State.nonFree, List.mem_filter, decide_eq_true_eq]
  exact ⟨fun h => h.2, fun h => ⟨State.mem_slots h, h⟩⟩

theorem State.slots_pairwise {s : State} (h : s.grants.wf = true) : s.slots.Pairwise (· < ·) := ((wf_iff _).mp h).1

theorem State.nonFree_pairwise {s : State} (h : s.grants.wf = true) : s.nonFree.Pairwise (· < ·) :=
  (State.slots_pairwise h).sublist List.filter_sublist

/-- An owed notice is a listed slot's. -/
theorem State.owesNotice_iff {s : State} : s.owesNotice = true ↔ ∃ i, (s.grant i).noticeOwed ≠ none := by
  simp only [State.owesNotice, List.any_eq_true, Option.isSome_iff_ne_none]
  constructor
  · rintro ⟨i, _, h⟩; exact ⟨i, h⟩
  · rintro ⟨i, h⟩
    refine ⟨i, mem_of_grantAt_ne (fun he => h ?_), h⟩
    rw [State.grant_eq, he]; rfl

/-! ## All the numbers below a bound -/

theorem mem_lastBelow {n k : Nat} (h : k ≤ n) (i : Fin n) : i ∈ lastBelow n k h ↔ n - k ≤ i.val := by
  induction k with
  | zero => simp [lastBelow]
  | succ k ih =>
    simp only [lastBelow, List.mem_cons, ih, Fin.ext_iff]
    omega

@[simp] theorem mem_allBelow {n : Nat} (i : Fin n) : i ∈ allBelow n := by
  simp [allBelow, mem_lastBelow]

theorem lastBelow_pairwise {n k : Nat} (h : k ≤ n) : (lastBelow n k h).Pairwise (· < ·) := by
  induction k with
  | zero => simp [lastBelow]
  | succ k ih =>
    simp only [lastBelow, List.pairwise_cons]
    refine ⟨fun a ha => ?_, ih _⟩
    rw [mem_lastBelow] at ha
    rw [Fin.lt_def]; simp only; omega

theorem allBelow_pairwise (n : Nat) : (allBelow n).Pairwise (· < ·) := lastBelow_pairwise _

theorem allBelow_nodup (n : Nat) : (allBelow n).Nodup := (allBelow_pairwise n).imp (fun h => ne_of_lt h)

/-- The first element of an ascending list that satisfies a condition is the lowest one. -/
theorem find?_pairwise {α : Type} [LinearOrder α] {p : α → Bool} {l : List α} (hl : l.Pairwise (· < ·)) {a : α} :
    l.find? p = some a ↔ a ∈ l ∧ p a = true ∧ ∀ b ∈ l, b < a → p b = false := by
  induction l with
  | nil => simp
  | cons c rest ih =>
    have hc := List.pairwise_cons.mp hl
    cases hp : p c with
    | true =>
      simp only [List.find?_cons, hp, Option.some.injEq, List.mem_cons]
      constructor
      · rintro rfl
        refine ⟨Or.inl rfl, hp, ?_⟩
        rintro b (rfl | hb) hlt
        · exact absurd hlt (lt_irrefl _)
        · exact absurd (lt_trans (hc.1 b hb) hlt) (lt_irrefl _)
      · rintro ⟨rfl | ha, _, h⟩
        · rfl
        · exact absurd (h c (Or.inl rfl) (hc.1 a ha)) (by simp [hp])
    | false =>
      simp only [List.find?_cons, hp, ih hc.2, List.mem_cons]
      constructor
      · rintro ⟨ha, hpa, h⟩
        refine ⟨Or.inr ha, hpa, ?_⟩
        rintro b (rfl | hb) hlt
        · exact hp
        · exact h b hb hlt
      · rintro ⟨rfl | ha, hpa, h⟩
        · exact absurd hpa (by simp [hp])
        · exact ⟨ha, hpa, fun b hb => h b (Or.inr hb)⟩

/-- The first number below a bound that satisfies a condition is the lowest one. -/
theorem find?_allBelow {n : Nat} {p : Fin n → Bool} {a : Fin n} :
    (allBelow n).find? p = some a ↔ p a = true ∧ ∀ b, b < a → p b = false := by
  rw [find?_pairwise (allBelow_pairwise n)]
  simp

theorem find?_allBelow_none {n : Nat} {p : Fin n → Bool} : (allBelow n).find? p = none ↔ ∀ a, p a = false := by
  simp [List.find?_eq_none]

theorem allBelow_eq_finRange (n : Nat) : allBelow n = List.finRange n := by
  refine List.Perm.eq_of_pairwise (le := (· < ·)) ?_ (allBelow_pairwise n) ?_ ?_
  · intro a b _ _ h1 h2; exact absurd (lt_trans h1 h2) (lt_irrefl _)
  · exact List.pairwise_lt_finRange n
  · rw [List.perm_ext_iff_of_nodup ((allBelow_pairwise n).imp (fun h => ne_of_lt h)) (List.nodup_finRange n)]
    simp

end Sys2Proof.Machine
end

