-- ==== Sys2Proof/Laws/Ops.lean ====
section
/-! SUPPORT. What each shared operation can do, said once: integrity reads, the tracker, the arbiter, the take test, the
taking of a command, freeing, and the completions of draining. -/

namespace Sys2Proof.Machine

/-! ## Ordered checks -/

@[simp] theorem firstFailing_nil {α : Type} : firstFailing ([] : List (α × Bool)) = none := rfl

theorem firstFailing_cons {α : Type} (x : α) (b : Bool) (l : List (α × Bool)) :
    firstFailing ((x, b) :: l) = if b then some x else firstFailing l := by
  cases b <;> rfl

theorem firstFailing_eq_none {α : Type} (l : List (α × Bool)) : firstFailing l = none ↔ ∀ p ∈ l, p.2 = false := by
  simp [firstFailing]

theorem firstFailing_mem {α : Type} {l : List (α × Bool)} {x : α} (h : firstFailing l = some x) : (x, true) ∈ l := by
  rw [firstFailing, Option.map_eq_some_iff] at h
  obtain ⟨⟨y, b⟩, hp, rfl⟩ := h
  have hb : b = true := List.find?_some hp
  subst hb
  exact List.mem_of_find?_eq_some hp

/-! ## Happenings and the stop -/

theorem happening_of_running {f : State → State} {s : State} (h : s.inReset = false) : happening f s = .next (f s.quiet) := by
  simp [happening, h]

theorem happening_in_reset {f : State → State} {s : State} (h : s.inReset = true) : happening f s = .next s.quiet := by
  simp [happening, h]

theorem stopProcessor_running {s : State} (h : s.runState = .running) : stopProcessor s = s := by
  simp [stopProcessor, h]

theorem stopProcessor_stopped {s : State} (h : s.runState = .stopped) :
    stopProcessor s = { s with processor := { s.processor with state := .stopped, discardCount := 0 } } := by
  simp [stopProcessor, h]

@[simp] theorem stopProcessor_grants (s : State) : (stopProcessor s).grants = s.grants := by
  unfold stopProcessor; split <;> rfl

@[simp] theorem stopProcessor_grant (s : State) : (stopProcessor s).grant = s.grant :=
  State.grant_congr (stopProcessor_grants s)

/-! ## The delegation tree -/

theorem ancestorsUpTo_congr {t u : GrantTable} (h : ∀ i, (grantAt t i).parent = (grantAt u i).parent) (n : Nat) (i : SlotIx) :
    ancestorsUpTo n t i = ancestorsUpTo n u i := by
  induction n generalizing i with
  | zero => rfl
  | succ n ih => simp only [ancestorsUpTo, h, ih]

/-- The ancestors of every slot depend on the parents alone. -/
theorem State.ancestors_congr {s t : State} (h : ∀ i, (s.grant i).parent = (t.grant i).parent) :
    s.ancestors = t.ancestors := by
  funext i; exact ancestorsUpTo_congr h _ _

/-! ## Integrity reads (R18) -/

theorem integrityRead_of_ok {i : SlotIx} {s : State} (h : (s.grant i).codeMatches = true ∨ (s.grant i).damaged = true) :
    integrityRead i s = s := by
  unfold integrityRead; rw [if_pos]; simpa using h

theorem integrityRead_of_mismatch {i : SlotIx} {s : State} (h : (s.grant i).codeMatches = false)
    (hd : (s.grant i).damaged = false) :
    integrityRead i s = recordError .integrity i.val (s.setGrant i { s.grant i with damaged := true }) := by
  unfold integrityRead; rw [if_neg]; simp [h, hd]

/-- The damaged flag is all of a slot's record that a read can change, and it is set exactly where the flag was set or
the code does not match. -/
theorem integrityRead_grant (i : SlotIx) (s : State) (j : SlotIx) :
    (integrityRead i s).grant j =
      { s.grant j with damaged := (s.grant j).damaged || (decide (j = i) && !(s.grant j).codeMatches) } := by
  by_cases h : (s.grant i).codeMatches = true ∨ (s.grant i).damaged = true
  · rw [integrityRead_of_ok h]
    have : ((s.grant j).damaged || (decide (j = i) && !(s.grant j).codeMatches)) = (s.grant j).damaged := by
      by_cases hj : j = i
      · subst hj; rcases h with h | h <;> simp [h]
      · simp [hj]
    rw [this]
  · simp only [not_or, Bool.not_eq_true] at h
    rw [integrityRead_of_mismatch h.1 h.2]
    show (s.setGrant i _).grant j = _
    rw [State.grant_setGrant]
    by_cases hj : j = i
    · subst hj; simp [h.1]
    · simp [hj]

theorem integrityRead_state (i : SlotIx) (s : State) (j : SlotIx) :
    ((integrityRead i s).grant j).state = (s.grant j).state := by rw [integrityRead_grant]

@[simp] theorem integrityRead_ancestors (i : SlotIx) (s : State) : (integrityRead i s).ancestors = s.ancestors :=
  State.ancestors_congr fun j => by rw [integrityRead_grant]

/-- A read changes the table, the error record and the run state alone. -/
theorem integrityRead_frame (i : SlotIx) (s : State) :
    integrityRead i s = { s with
      grants := (integrityRead i s).grants
      errors := (integrityRead i s).errors
      runState := (integrityRead i s).runState } := by
  by_cases h : (s.grant i).codeMatches = true ∨ (s.grant i).damaged = true
  · rw [integrityRead_of_ok h]
  · simp only [not_or, Bool.not_eq_true] at h
    rw [integrityRead_of_mismatch h.1 h.2]; rfl

theorem integrityRead_wf {i : SlotIx} {s : State} (h : s.grants.wf = true) : (integrityRead i s).grants.wf = true := by
  unfold integrityRead; split
  · exact h
  · exact wf_putGrant _ _ h

/-! ## Tables of fixed length -/

theorem vector_any {n : Nat} {α : Type} (v : Vector α n) (p : α → Bool) :
    v.toList.any p = true ↔ ∃ i : Fin n, p v[i] = true := by
  rw [List.any_eq_true]
  constructor
  · rintro ⟨x, hx, hp⟩
    rw [List.mem_iff_getElem] at hx
    obtain ⟨i, hi, rfl⟩ := hx
    exact ⟨⟨i, by simpa using hi⟩, by simpa using hp⟩
  · rintro ⟨i, hp⟩
    exact ⟨v[i], by simp, hp⟩

theorem vector_countP_eq_zero {n : Nat} {α : Type} (v : Vector α n) (p : α → Bool) :
    v.toList.countP p = 0 ↔ ∀ i : Fin n, p v[i] = false := by
  rw [List.countP_eq_zero]
  constructor
  · intro h i; simpa using h v[i] (by simp)
  · intro h x hx
    rw [List.mem_iff_getElem] at hx
    obtain ⟨i, hi, rfl⟩ := hx
    simpa using h ⟨i, by simpa using hi⟩

theorem vector_countP_eq_length {n : Nat} {α : Type} (v : Vector α n) (p : α → Bool) :
    v.toList.countP p = n ↔ ∀ i : Fin n, p v[i] = true := by
  have hl : v.toList.length = n := by simp
  constructor
  · intro h i
    have := List.countP_eq_length.mp (h.trans hl.symm)
    exact this v[i] (by simp)
  · intro h
    refine Eq.trans (List.countP_eq_length.mpr ?_) hl
    intro x hx
    rw [List.mem_iff_getElem] at hx
    obtain ⟨i, hi, rfl⟩ := hx
    simpa using h ⟨i, by simpa using hi⟩

/-! ## The tracker and the arbiter -/

theorem State.firstEmpty_eq_some {s : State} {k : EntryIx} :
    s.firstEmpty = some k ↔ s.tracker[k].state = .empty ∧ ∀ j, j < k → s.tracker[j].state ≠ .empty := by
  simp [State.firstEmpty, find?_allBelow]

theorem State.firstEmpty_isSome {s : State} : s.firstEmpty.isSome = true ↔ ∃ k : EntryIx, s.tracker[k].state = .empty := by
  simp [State.firstEmpty]

theorem State.inFlight_eq_zero {s : State} {i : SlotIx} :
    s.inFlight i = 0 ↔ ∀ k : EntryIx, s.tracker[k].state = .issued → s.tracker[k].grant ≠ i := by
  rw [State.inFlight, vector_countP_eq_zero]
  simp

theorem takeable_iff (s : State) (a : AgentIx) : takeable s a = true ↔ TakeableBy s a := by
  unfold takeable TakeableBy State.admitted
  simp only [Bool.and_eq_true, Bool.or_eq_true, State.firstEmpty_isSome, decide_eq_true_eq, Bool.not_and, Bool.not_not]
  simp only [Option.isSome_iff_ne_none, Bool.not_eq_true', decide_eq_false_iff_not]

theorem laneDistance_search (p : AgentIx) :
    ∀ k : AgentIx, laneDistance p (Fin.ofNat 16 (p.val + 1 + k.val)) = k.val := by
  revert p; decide +kernel

theorem search_laneDistance (p a : AgentIx) : Fin.ofNat 16 (p.val + 1 + laneDistance p a) = a := by
  revert p a; decide +kernel

theorem laneDistance_lt (p a : AgentIx) : laneDistance p a < 16 := Nat.mod_lt _ (by norm_num)

/-- The arbiter's next lane is the takeable lane nearest after the pointer (R28). -/
theorem nextLane_eq_some {s : State} {a : AgentIx} : nextLane s = some a ↔
    TakeableBy s a ∧ ∀ b, laneDistance s.lanePointer b < laneDistance s.lanePointer a → ¬ TakeableBy s b := by
  unfold nextLane searchOrder
  rw [List.find?_map, Option.map_eq_some_iff]
  simp only [find?_allBelow, Function.comp_apply, takeable_iff]
  constructor
  · rintro ⟨k, ⟨h1, h2⟩, rfl⟩
    refine ⟨h1, fun b hb hT => ?_⟩
    rw [laneDistance_search] at hb
    have := h2 ⟨laneDistance s.lanePointer b, laneDistance_lt _ _⟩ hb
    simp only [search_laneDistance] at this
    exact absurd ((takeable_iff s b).mpr hT) (by simp [this])
  · rintro ⟨h1, h2⟩
    refine ⟨⟨laneDistance s.lanePointer a, laneDistance_lt _ _⟩, ⟨?_, ?_⟩, ?_⟩
    · simpa only [search_laneDistance] using h1
    · intro b hb
      by_contra hT
      refine h2 (Fin.ofNat 16 (s.lanePointer.val + 1 + b.val)) ?_ ((takeable_iff _ _).mp (by simpa using hT))
      rw [laneDistance_search]; exact hb
    · simp only [search_laneDistance]

/-- A due ACCESS_TAKE is the take of the arbiter's lane. -/
theorem execAccessTake_eq {s : State} {a : AgentIx} {q : Request} (h : NextTake s a q) :
    exec .accessTake s = .next (takeLane a q s.quiet) := by
  have hn : nextLane s.quiet = some a := nextLane_eq_some.mpr ⟨h.takeable, h.first⟩
  have hl : s.quiet.lanes[a] = some q := h.held
  simp only [exec, execAccessTake, happening_of_running h.outOfReset, accessTake, hn, hl]

/-! ## Open operations -/

theorem State.openCount_eq_zero {s : State} : s.openCount = 0 ↔ ∀ k : RetireIx, s.retire[k] = none := by
  rw [State.openCount, vector_countP_eq_zero]
  simp

theorem State.openCount_eq_eight {s : State} : s.openCount = 8 ↔ ∀ k : RetireIx, s.retire[k] ≠ none := by
  rw [State.openCount, vector_countP_eq_length]
  simp [Option.isSome_iff_ne_none]

theorem State.openCount_le (s : State) : s.openCount ≤ 8 := by
  have : s.retire.toList.length = 8 := by simp
  exact this ▸ List.countP_le_length

theorem State.unreserved_eq_zero {s : State} : s.unreserved = 0 ↔ 32 ≤ s.responseQueue.length + s.reserved := by
  unfold State.unreserved; omega

theorem State.owesNotice_eq_false {s : State} : s.owesNotice = false ↔ ∀ i, (s.grant i).noticeOwed = none := by
  rw [← Bool.not_eq_true, State.owesNotice_iff]; simp

/-! ## The take test (R67) -/

/-- The take test changes the processor's state alone. -/
theorem takeTest_frame (s : State) :
    takeTest s = { s with processor := { s.processor with state := (takeTest s).processor.state } } := by
  unfold takeTest; split <;> rfl

@[simp] theorem takeTest_grants (s : State) : (takeTest s).grants = s.grants := by rw [takeTest_frame]
@[simp] theorem takeTest_grant (s : State) : (takeTest s).grant = s.grant := State.grant_congr (takeTest_grants s)
@[simp] theorem takeTest_runState (s : State) : (takeTest s).runState = s.runState := by rw [takeTest_frame]

/-- The test reads the processor's state, the queue, the places, the owed notices and the open operations alone. -/
theorem takeTestState_congr {s t : State} (hq : s.commandQueue = t.commandQueue) (ho : s.owesNotice = t.owesNotice)
    (hp : s.responseQueue.length + s.reserved = t.responseQueue.length + t.reserved) (hr : s.openCount = t.openCount) :
    takeTestState s = takeTestState t := by
  unfold takeTestState State.unreserved; rw [hq, ho, hp, hr]

/-! ## Taking a command (R67–R70) -/

theorem TakeReady.takeDue {s : State} {r : CommandRecord} {rest : List CommandRecord} (h : TakeReady s r rest) :
    s.takeDue = true := by
  have hp := h.place
  have hx : ¬ (s.owesNotice = true ∨ s.unreserved = 0) := by
    rw [State.unreserved_eq_zero, h.noneOwed]; simp; omega
  have hy : ¬ (r.revoking = true ∧ s.openCount = 8) := fun c => by have := h.retireSlot c.1; omega
  simp only [State.takeDue, takeTestState, h.queued, h.idle, if_neg hx, if_neg hy]
  rfl

/-- A due take of a record that passes the general checks runs the command's own rule, with the record out of the queue
and its place reserved. -/
theorem take_of_passes {s : State} {r : CommandRecord} {rest : List CommandRecord} {k : CommandKind}
    (h : TakeReady s r rest) (hp : Passes r k) (body : CommandRecord → State → Verdict × State) :
    happening (takeCommand (some k) body) s =
      .next (endTake r (body r (s.quiet.takeHead rest)).1 (body r (s.quiet.takeHead rest)).2) := by
  have hd : s.quiet.takeDue = true := h.takeDue
  have hq : s.quiet.commandQueue = r :: rest := h.queued
  rw [happening_of_running h.outOfReset]
  simp only [takeCommand, hq, hd, hp.kind, hp.general, and_self, if_true, Bool.false_eq_true, if_false]

/-- A due take of a record that fails the general checks completes it MALFORMED. -/
theorem take_of_malformed {s : State} {r : CommandRecord} {rest : List CommandRecord}
    (h : TakeReady s r rest) (hg : r.generallyMalformed = true) (body : CommandRecord → State → Verdict × State) :
    happening (takeCommand r.kind body) s =
      .next (endTake r (.completes .malformed none .absent) (s.quiet.takeHead rest)) := by
  have hd : s.quiet.takeDue = true := h.takeDue
  have hq : s.quiet.commandQueue = r :: rest := h.queued
  rw [happening_of_running h.outOfReset]
  simp only [takeCommand, hq, hd, hg, and_self, if_true]

/-- A take that is not due, or not of this kind, changes nothing. -/
theorem take_of_not_due {s : State} {wanted : Option CommandKind} (h : s.inReset = false)
    (hd : s.takeDue = false ∨ ∀ r rest, s.commandQueue = r :: rest → r.kind ≠ wanted)
    (body : CommandRecord → State → Verdict × State) :
    happening (takeCommand wanted body) s = .next s.quiet := by
  rw [happening_of_running h]
  have hq : s.quiet.takeDue = s.takeDue := rfl
  unfold takeCommand
  split
  · rfl
  · rename_i r rest hc
    have hc' : s.commandQueue = r :: rest := hc
    rw [if_neg]
    rw [hq]
    rcases hd with hd | hd
    · simp [hd]
    · exact fun c => hd r rest hc' c.2

/-- A command that completes out of a state whose reservation it holds ends as its status lays down. -/
theorem endTake_completes (r : CommandRecord) (st : Status) (h : Option Handle) (res : Result) (u : State)
    (rest : List CommandRecord) :
    endTake r (.completes st h res) (u.takeHead rest) =
      stopProcessor (if st.halts then haltedTake u rest (completionOf r st h res)
        else completedTake u rest (completionOf r st h res)) := by
  cases st <;> rfl

/-- The same, where the device still runs. -/
theorem endTake_running {r : CommandRecord} (st : Status) (h : Option Handle) (res : Result) {u : State}
    (rest : List CommandRecord) (hr : u.runState = .running) :
    endTake r (.completes st h res) (u.takeHead rest) =
      if st.halts then haltedTake u rest (completionOf r st h res)
      else completedTake u rest (completionOf r st h res) := by
  rw [endTake_completes, stopProcessor_running]
  cases st <;> simp [Status.halts, haltedTake, completedTake, hr]

/-- A command refused with no result ends as its status lays down. -/
theorem endTake_refused {r : CommandRecord} (st : Status) (h : Option Handle) {u : State} (rest : List CommandRecord)
    (hr : u.runState = .running) :
    endTake r (.completes st h .absent) (u.takeHead rest) = endedTake u rest r st h := by
  rw [endTake_running st h .absent rest hr]
  cases st <;> rfl

/-! ## Draining, freeing, completions -/

theorem drainSlots_grant (which : SlotIx → Bool) (s : State) (j : SlotIx) :
    (drainSlots which s).grant j =
      if which j && (s.grant j).state.inUse then { s.grant j with state := .draining } else s.grant j := by
  unfold drainSlots
  rw [State.grant_updateGrants]
  simp [freeRecord, GrantState.inUse]

theorem State.eligible_iff {s : State} {i : SlotIx} : s.eligible i = true ↔
    (s.grant i).state = .draining ∧ s.inFlight i = 0 ∧ (s.grant i).children = [] ∧ (s.grant i).noticeOwed = none := by
  simp [State.eligible, and_assoc]

/-- A slot that is eligible is listed. -/
theorem State.mem_slots_of_eligible {s : State} {i : SlotIx} (h : s.eligible i = true) : i ∈ s.slots :=
  State.mem_slots (by rw [(State.eligible_iff.mp h).1]; simp)

theorem State.find_eligible_none {s : State} : s.slots.find? s.eligible = none ↔ ∀ i, s.eligible i = false := by
  rw [List.find?_eq_none]
  constructor
  · intro h i
    by_contra hc
    rw [Bool.not_eq_false] at hc
    exact h i (State.mem_slots_of_eligible hc) hc
  · intro h i _; simp [h i]

theorem freeLoop_of_none {s : State} (h : ∀ i, s.eligible i = false) (n : Nat) : freeLoop n s = s := by
  cases n with
  | zero => rfl
  | succ n => simp only [freeLoop, State.find_eligible_none.mpr h]

theorem freeAll_of_none {s : State} (h : ∀ i, s.eligible i = false) : freeAll s = s := freeLoop_of_none h _

/-- With one slot eligible and none after it frees, freeing is the freeing of that slot. -/
theorem freeAll_of_one {s : State} {i : SlotIx} (h : s.eligible i = true) (ho : ∀ j, j ≠ i → s.eligible j = false)
    (hn : ∀ j, (freeSlot i s).eligible j = false) : freeAll s = freeSlot i s := by
  have hf : s.slots.find? s.eligible = some i := by
    cases hc : s.slots.find? s.eligible with
    | none => rw [State.find_eligible_none] at hc; simp [hc i] at h
    | some j =>
      have hj : s.eligible j = true := List.find?_some hc
      by_cases e : j = i
      · rw [e]
      · simp [ho j e] at hj
  have hs : ∀ n, freeLoop (n + 1) s = freeLoop n (freeSlot i s) := fun n => by simp only [freeLoop, hf]
  exact (hs 1023).trans (freeLoop_of_none hn _)

theorem completeIfEmpty_of_nonempty {s : State} {k : RetireIx} (h : ∀ op, s.retire[k] = some op → op.members ≠ []) :
    completeIfEmpty s k = s := by
  unfold completeIfEmpty
  split
  · rfl
  · rename_i op ho
    rw [if_neg]; simpa using h op ho

theorem foldl_completeIfEmpty_of_nonempty {s : State} {l : List RetireIx}
    (h : ∀ k ∈ l, ∀ op, s.retire[k] = some op → op.members ≠ []) : l.foldl completeIfEmpty s = s := by
  induction l with
  | nil => rfl
  | cons k rest ih =>
    rw [List.foldl_cons, completeIfEmpty_of_nonempty (h k (by simp))]
    exact ih fun j hj => h j (by simp [hj])

theorem completeRetires_of_nonempty {s : State} (h : ∀ (k : RetireIx) op, s.retire[k] = some op → op.members ≠ []) :
    completeRetires s = s := foldl_completeIfEmpty_of_nonempty fun k _ => h k

theorem completeBarrier_of_none {s : State} (h : s.processor.barrierTag = none) : completeBarrier s = s := by
  unfold completeBarrier; rw [h]

theorem completeBarrier_of_open {s : State} (h : s.openCount ≠ 0) : completeBarrier s = s := by
  unfold completeBarrier; split
  · rfl
  · rw [if_pos h]

/-- Where nothing is eligible, no member set is empty and no BARRIER waits, settling changes nothing. -/
theorem settle_of_settled {s : State} (he : ∀ i, s.eligible i = false)
    (hr : ∀ (k : RetireIx) op, s.retire[k] = some op → op.members ≠ []) (hb : s.processor.barrierTag = none) :
    settle s = s := by
  unfold settle
  rw [freeAll_of_none he, completeRetires_of_nonempty hr, completeBarrier_of_none hb]

/-- The freeing of one slot, slot by slot. -/
theorem freeSlot_grant (i : SlotIx) (s : State) (h : (s.grant i).parent ≠ some i) (x : SlotIx) :
    (freeSlot i s).grant x = if x = i then freeRecord ((s.grant i).generation + 1)
      else if (s.grant i).parent = some x then { s.grant x with children := (s.grant x).children.filter (fun c => c != i) }
      else s.grant x := by
  unfold freeSlot
  show (unlinkChild (s.grant i).parent i (s.setGrant i (freeRecord ((s.grant i).generation + 1)))).grant x = _
  unfold unlinkChild
  cases hp : (s.grant i).parent with
  | none => simp [State.grant_setGrant]
  | some p =>
    have hpi : p ≠ i := fun e => h (by rw [hp, e])
    by_cases hx : x = i
    · subst hx; simp [State.grant_setGrant, hpi.symm]
    · by_cases hxp : x = p
      · subst hxp; simp [State.grant_setGrant, hx]
      · simp [State.grant_setGrant, hx, hxp, Ne.symm hxp]

theorem freeSlot_frame (i : SlotIx) (s : State) :
    freeSlot i s = { s with
      grants := (freeSlot i s).grants
      freeList := s.freeList ++ [i]
      retire := s.retire.map (Option.map (RetireOp.without i)) } := by
  unfold freeSlot unlinkChild
  cases (s.grant i).parent <;> rfl

/-! ## Drain timeouts (R113, R114) -/

/-- Where no ISSUED entry names a member, a timeout spends the timer alone. -/
theorem timeoutRetire_of_none_under {s : State} {k : RetireIx} {op : RetireOp} (h : s.retire[k] = some op)
    (hn : s.tracker.toList.any (fun e => e.issuedUnder op.members) = false) :
    timeoutRetire s k = s.setRetire k (some { op with drainRemaining := none }) := by
  simp only [timeoutRetire, h, hn, Bool.false_eq_true, if_false]

/-- Where one does, the entries under the members become ABANDONED, the flag is set and one ABANDON error is recorded. -/
theorem timeoutRetire_of_some_under {s : State} {k : RetireIx} {op : RetireOp} (h : s.retire[k] = some op)
    (hs : s.tracker.toList.any (fun e => e.issuedUnder op.members) = true) :
    timeoutRetire s k = recordError .abandon k.val ((abandonEntries (fun e => e.issuedUnder op.members) s).setRetire k
      (some { op with drainRemaining := none, abandoned := true })) := by
  simp only [timeoutRetire, h, hs, if_true]

/-- A timeout changes the tracker, its own retire slot, the error record and the run state, and nothing else. -/
theorem timeoutRetire_frame (s : State) (k : RetireIx) :
    timeoutRetire s k = { s with
      tracker := (timeoutRetire s k).tracker
      retire := (timeoutRetire s k).retire
      errors := (timeoutRetire s k).errors
      runState := (timeoutRetire s k).runState } := by
  unfold timeoutRetire
  split
  · rfl
  · split <;> rfl

/-- The entries a timeout leaves: those ISSUED under a member are ABANDONED, and the others stand. -/
theorem timeoutRetire_tracker (s : State) (k : RetireIx) :
    (timeoutRetire s k).tracker = s.tracker.map (fun e => if e.issuedUnder (s.membersOf k) then e.abandon else e) := by
  have unchanged : ∀ p : Entry → Bool, (∀ e ∈ s.tracker.toList, p e = false) →
      s.tracker = s.tracker.map (fun e => if p e then e.abandon else e) := fun p hp => by
    ext1 i hi
    rw [Vector.getElem_map, hp s.tracker[i] (by simp), if_neg Bool.false_ne_true]
  cases h : s.retire[k] with
  | none =>
    have hm : s.membersOf k = [] := by simp only [State.membersOf, h]
    have ht : timeoutRetire s k = s := by simp only [timeoutRetire, h]
    rw [ht, hm]
    exact unchanged _ fun e _ => by simp [Entry.issuedUnder]
  | some op =>
    have hm : s.membersOf k = op.members := by simp only [State.membersOf, h]
    rw [hm]
    cases hu : s.tracker.toList.any (fun e => e.issuedUnder op.members) with
    | true => rw [timeoutRetire_of_some_under h hu]; rfl
    | false =>
      rw [timeoutRetire_of_none_under h hu]
      exact unchanged _ fun e he => by simpa using List.any_eq_false.mp hu e he

/-- No timeout changes the members of an operation. -/
theorem timeoutRetire_membersOf (s : State) (k j : RetireIx) : (timeoutRetire s k).membersOf j = s.membersOf j := by
  cases h : s.retire[k] with
  | none => simp only [timeoutRetire, h]
  | some op =>
    have key : ∀ op' : RetireOp, op'.members = op.members → (s.setRetire k (some op')).membersOf j = s.membersOf j := by
      intro op' hm
      unfold State.membersOf
      by_cases e : k = j
      · subst e
        rw [show (s.setRetire k (some op')).retire[k] = some op' from by simp [State.setRetire], h]
        exact hm
      · have : (s.setRetire k (some op')).retire[j] = s.retire[j] := by
          simp only [State.setRetire, Fin.getElem_fin]
          exact Vector.getElem_set_ne _ _ fun c => e (Fin.ext c)
        rw [this]
    cases hu : s.tracker.toList.any (fun e => e.issuedUnder op.members) with
    | true => rw [timeoutRetire_of_some_under h hu]; exact key _ rfl
    | false => rw [timeoutRetire_of_none_under h hu]; exact key _ rfl

/-- An abandoned entry is under no member any more. -/
theorem Entry.issuedUnder_abandon (e : Entry) (members : List SlotIx) : e.abandon.issuedUnder members = false := by
  simp [Entry.issuedUnder, Entry.abandon]

theorem foldl_timeoutRetire_tracker (ks : List RetireIx) (s : State) :
    (ks.foldl timeoutRetire s).tracker =
      s.tracker.map (fun e => if ks.any (fun k => e.issuedUnder (s.membersOf k)) then e.abandon else e) := by
  induction ks generalizing s with
  | nil => ext1 i hi; simp
  | cons k rest ih =>
    rw [List.foldl_cons, ih, timeoutRetire_tracker]
    ext1 i hi
    simp only [Vector.getElem_map, timeoutRetire_membersOf, List.any_cons]
    by_cases h : s.tracker[i].issuedUnder (s.membersOf k) = true
    · simp [h, Entry.issuedUnder_abandon]
    · simp [h]

/-- The timeouts of one happening together abandon the entries ISSUED under a member of any of their operations: those,
and no others, are answered. -/
theorem timeoutRetires_tracker (ks : List RetireIx) (s : State) :
    (timeoutRetires ks s).tracker =
      s.tracker.map (fun e => if ks.any (fun k => e.issuedUnder (s.membersOf k)) then e.abandon else e) :=
  foldl_timeoutRetire_tracker ks s

/-! ## Faults offered to an agent's slot (R138, R142) -/

/-- Auto-quarantine touches the agent's own record alone: an ACTIVE agent with the flag becomes QUARANTINED. -/
theorem autoQuarantine_eq (a : AgentIx) (s : State) :
    autoQuarantine a s = { s with
      agents := if s.agents[a].autoQuarantine = true ∧ s.agents[a].state = .active
        then s.agents.set a { s.agents[a] with state := .quarantined } else s.agents } := by
  unfold autoQuarantine
  by_cases h : s.agents[a].autoQuarantine = true ∧ s.agents[a].state = .active
  · rw [if_pos h, if_pos h]; rfl
  · rw [if_neg h, if_neg h]

/-- An offered fault changes the agent's fault slot and, by auto-quarantine, its record; nothing else. -/
theorem offerFault_eq (a : AgentIx) (f : HeldFault) (s : State) :
    offerFault a f s = { s with
      faultSlots := s.faultSlots.set a (offered f s.faultSlots[a])
      agents := if s.agents[a].autoQuarantine = true ∧ s.agents[a].state = .active
        then s.agents.set a { s.agents[a] with state := .quarantined } else s.agents } :=
  autoQuarantine_eq a _

/-! ## Notices (R64, R125) -/

theorem offerNotice_posted {s : State} (h : s.unreserved ≠ 0) (i : SlotIx) (n : Notice) :
    offerNotice i n s = s.post (.notice n) := by
  unfold offerNotice; rw [if_neg h]

theorem offerNotice_owed {s : State} (h : s.unreserved = 0) (i : SlotIx) (n : Notice) :
    offerNotice i n s = s.setGrant i { s.grant i with noticeOwed := some n } := by
  unfold offerNotice; rw [if_pos h]

theorem State.mem_slots_of_owed {s : State} {i : SlotIx} (h : (s.grant i).noticeOwed ≠ none) : i ∈ s.slots :=
  mem_of_grantAt_ne fun he => h (by rw [State.grant_eq, he]; rfl)

/-- The owed notice of the lowest slot is the first to be posted. -/
theorem State.firstOwed_eq_some {s : State} (h : s.grants.wf = true) {i : SlotIx} :
    s.firstOwed = some i ↔ (s.grant i).noticeOwed ≠ none ∧ ∀ j, j < i → (s.grant j).noticeOwed = none := by
  rw [State.firstOwed, find?_pairwise (State.slots_pairwise h)]
  simp only [Option.isSome_iff_ne_none, ← Bool.not_eq_true, ne_eq, Decidable.not_not]
  constructor
  · rintro ⟨_, hi, hj⟩
    refine ⟨hi, fun j hlt => ?_⟩
    by_contra hc
    exact hc (hj j (State.mem_slots_of_owed hc) hlt)
  · rintro ⟨hi, hj⟩
    exact ⟨State.mem_slots_of_owed hi, hi, fun j _ hlt => hj j hlt⟩

theorem State.firstOwed_eq_none {s : State} : s.firstOwed = none ↔ ∀ i, (s.grant i).noticeOwed = none := by
  simp only [State.firstOwed, List.find?_eq_none, Option.isSome_iff_ne_none, ne_eq, Decidable.not_not]
  exact ⟨fun h i => by_contra fun hi => hi (h i (State.mem_slots_of_owed hi)), fun h i _ => h i⟩

theorem State.mem_owedSlots {s : State} {i : SlotIx} : i ∈ s.owedSlots ↔ (s.grant i).noticeOwed ≠ none := by
  simp [State.owedSlots]

/-- The first of an ascending list to satisfy a test heads the filtered list. -/
theorem filter_eq_cons_of_lowest {n : Nat} {p : Fin n → Bool} {i : Fin n} :
    ∀ {l : List (Fin n)}, l.Pairwise (· < ·) → i ∈ l → p i = true → (∀ j, j < i → p j = false) →
      l.filter p = i :: l.filter fun j => p j && decide (j ≠ i)
  | a :: l, hl, hm, hp, low => by
    have above := (List.pairwise_cons.mp hl).1
    rcases List.mem_cons.mp hm with rfl | hm
    · rw [List.filter_cons_of_pos hp, List.filter_cons_of_neg (by simp)]
      exact congrArg _ (List.filter_congr fun j hj => by simp [(above j hj).ne'])
    · rw [List.filter_cons_of_neg (by simp [low a (above i hm)]), List.filter_cons_of_neg (by simp [low a (above i hm)]),
        filter_eq_cons_of_lowest (List.pairwise_cons.mp hl).2 hm hp low]

/-- The slots that owe a notice: the lowest, and those that still owe one once it has been served. -/
theorem State.owedSlots_eq_cons {s : State} {i : SlotIx} (n : Notice) (hi : (s.grant i).noticeOwed ≠ none)
    (low : ∀ j, j < i → (s.grant j).noticeOwed = none) : s.owedSlots = i :: (postOwedOf i n s).owedSlots := by
  unfold State.owedSlots
  rw [filter_eq_cons_of_lowest (List.pairwise_lt_finRange 1024) (List.mem_finRange i) (by simpa using hi)
    (fun j hj => by simpa using low j hj)]
  refine congrArg _ (List.filter_congr fun j _ => ?_)
  show _ = decide (((s.setGrant i _).grant j).noticeOwed ≠ none)
  by_cases h : j = i <;> simp [State.grant_setGrant, h]

/-- Posting owed notices serves as many of them as there are unreserved places, and no more than it is asked to. -/
theorem postOwed_posts (n : Nat) {s : State} (h : s.grants.wf = true) :
    PostsOwed (min n s.unreserved) s (postOwed n s) := by
  induction n generalizing s with
  | zero => exact ⟨h, by simp [postOwed], by simp [postOwed]⟩
  | succ n ih =>
    unfold postOwed
    by_cases full : s.unreserved = 0
    · rw [if_pos full, full]
      exact ⟨h, by simp, by simp⟩
    · rw [if_neg full]
      cases first : s.firstOwed with
      | none =>
        have none : s.owedSlots = [] := List.eq_nil_iff_forall_not_mem.mpr fun i hi =>
          State.mem_owedSlots.mp hi (State.firstOwed_eq_none.mp first i)
        exact ⟨h, by simp [none], by simp [none]⟩
      | some i =>
        obtain ⟨hi, low⟩ := (State.firstOwed_eq_some h).mp first
        obtain ⟨notice, hn⟩ := Option.ne_none_iff_exists'.mp hi
        let served := postOwedOf i notice s
        obtain ⟨canonical, grants, others⟩ := ih (s := served) (wf_putGrant _ _ h)
        have taken : s.owedSlots.take (min (n + 1) s.unreserved) = i :: served.owedSlots.take (min n served.unreserved) := by
          rw [State.owedSlots_eq_cons notice hi low, ← List.take_succ_cons]
          congr 1
          simp only [State.unreserved, served, postOwedOf, State.post, State.setGrant_responseQueue,
            State.setGrant_reserved, List.length_append, List.length_singleton] at full ⊢
          omega
        have fresh : i ∉ served.owedSlots.take (min n served.unreserved) := fun hm =>
          State.mem_owedSlots.mp (List.mem_of_mem_take hm) (by show ((s.setGrant i _).grant i).noticeOwed = _; simp)
        have same : ∀ j, j ≠ i → served.grant j = s.grant j := fun j hj => State.grant_setGrant_ne s _ hj
        simp only [hn]
        refine ⟨canonical, fun x => ?_, ?_⟩
        · rw [grants, taken]
          by_cases hx : x = i
          · subst hx
            rw [if_neg fresh, if_pos (List.mem_cons_self ..)]
            exact State.grant_setGrant_same ..
          · simp [same x hx, hx]
        · rw [others, taken, List.filterMap_cons, hn, List.filterMap_congr fun j hj => by
            rw [same j fun he => fresh (he ▸ hj)]]
          simp [served, postOwedOf, State.post, State.setGrant]

/-! ## Scans (R105, R149) -/

/-- A scan sets the damaged flag of the slots scanned whose code does not match, and changes no other part of a record. -/
theorem foldl_integrityRead_grant (l : List SlotIx) (s : State) (j : SlotIx) :
    (l.foldl (fun s i => integrityRead i s) s).grant j =
      { s.grant j with damaged := (s.grant j).damaged || (decide (j ∈ l) && !(s.grant j).codeMatches) } := by
  induction l generalizing s with
  | nil => simp
  | cons i rest ih =>
    rw [List.foldl_cons, ih, integrityRead_grant]
    by_cases h : j = i <;> by_cases h' : j ∈ rest <;> cases (s.grant j).codeMatches <;> simp [h, h']

theorem integrityScan_grant (s : State) (j : SlotIx) :
    (integrityScan s).grant j = { s.grant j with
      damaged := (s.grant j).damaged || (decide ((s.grant j).state ≠ .free) && !(s.grant j).codeMatches) } := by
  unfold integrityScan
  rw [foldl_integrityRead_grant]
  simp only [State.mem_nonFree]

end Sys2Proof.Machine
end

