-- ==== Sys2Proof/WellFormed.lean ====
section
/-! DEFINITION. Which commands the ports can carry: the checks that concern a command's operands alone. -/

namespace Sys2Proof

/-- R23: the write data of a WRITE whose length lies in 1–4096 holds exactly length bytes. Other requests may carry
any data. -/
def Request.wellFormed (q : Request) : Bool :=
  if q.kind = .write ∧ 1 ≤ q.length.toNat ∧ q.length.toNat ≤ 4096 then q.data.length == q.length.toNat else true

/-- The operand checks. A request keeps R23; a completion carries at most 4096 bytes, and none with status ERROR
(R46); the opcode byte of a BAD_FRAME row names no transaction (R169, R183). -/
def Instr.wellFormed : Instr → Bool
  | .requestPresented _ q => q.wellFormed
  | .memoryCompletion _ .error d => d.isEmpty
  | .memoryCompletion _ .ok d => decide (d.length ≤ 4096)
  | .badFrame b => decide (b.toNat = 0 ∨ 6 < b.toNat)
  | .powerOnReset | .hardwareReset | .softReset | .accessTake | .freeing _ | .retireCompletion _ | .barrierCompletion
  | .leaseTick | .lapse _ | .owedNoticePosted | .drainTimeout _ | .push _ | .pop _ | .resume | .discard
  | .pushRefusedClear | .discardRemoval | .errorClear _ | .faultAck _ | .faultSelect _ | .intEnable _
  | .registerWrite _ _ | .create | .derive | .modify | .query | .revoke | .revokeAgent | .purge | .barrier | .agentSet
  | .quarantine | .release | .excludeSet | .freeze | .configure | .unknownKindCode | .statusRead | .errorRead
  | .agentRead _ | .grantRead _ | .hold _ | .unhold _ | .resetRelease | .csAsserted | .csDeasserted
  | .fullByteReceived _ => true

end Sys2Proof
end

