-- ==== Sys2Proof/Tests/Slice0.lean ====
section
/-! SUPPORT. Tests and witnesses: the ill-formed operands that the checks refuse, the worked sequences of chapter 13 step by
step, and for each statement with hypotheses a concrete state and operands that meet them. -/

namespace Sys2Proof.Tests

open Sys2Proof.Machine

set_option Elab.async false

/-! ## WellFormed: an ill-formed command for each check -/

theorem test_request_short_data : (Instr.requestPresented 0 ⟨0, 0, 0, 2, .write, [1]⟩).wellFormed = false := by decide
theorem test_request_full_data : (Instr.requestPresented 0 ⟨0, 0, 0, 2, .write, [1, 2]⟩).wellFormed = true := by decide
theorem test_completion_error_with_data : (Instr.memoryCompletion 0 .error [1]).wellFormed = false := by decide
theorem test_completion_too_long : (Instr.memoryCompletion 0 .ok (List.replicate 4097 0)).wellFormed = false := by
  decide +kernel
theorem test_bad_frame_of_a_transaction : (Instr.badFrame 6).wellFormed = false := by decide

/-! ## Helpers -/

/-- A take of the record is due, as a test. -/
def isReady (s : State) (r : CommandRecord) (rest : List CommandRecord) : Bool :=
  !s.inReset && decide (s.runState = .running) && decide (s.processor.state = .idle)
    && decide (s.commandQueue = r :: rest) && !s.owesNotice && decide (s.responseQueue.length + s.reserved < 32)
    && (!r.revoking || decide (s.openCount < 8))

theorem takeReady_of {s : State} {r : CommandRecord} {rest : List CommandRecord} (h : isReady s r rest = true) :
    TakeReady s r rest := by
  simp only [isReady, Bool.and_eq_true, Bool.not_eq_true', decide_eq_true_eq, Bool.or_eq_true] at h
  obtain ⟨⟨⟨⟨⟨⟨h1, h2⟩, h3⟩, h4⟩, h5⟩, h6⟩, h7⟩ := h
  refine ⟨h1, h2, h3, h4, h5, h6, fun hr => ?_⟩
  rcases h7 with h | h
  · rw [h] at hr; cases hr
  · exact h

/-- A record of the kind passes the general checks, as a test. -/
def passesAs (r : CommandRecord) (k : CommandKind) : Bool := decide (r.kind = some k) && !r.generallyMalformed

theorem passes_of {r : CommandRecord} {k : CommandKind} (h : passesAs r k = true) : Passes r k := by
  simp only [passesAs, Bool.and_eq_true, Bool.not_eq_true', decide_eq_true_eq] at h
  exact ⟨h.1, h.2⟩

/-- The arbiter's next lane, as a test. -/
theorem nextTake_of {s : State} {a : AgentIx} {q : Request} (hr : s.inReset = false) (hn : nextLane s = some a)
    (hl : s.lanes[a] = some q) : NextTake s a q :=
  ⟨hr, hl, (nextLane_eq_some.mp hn).1, (nextLane_eq_some.mp hn).2⟩

/-- The state after a command. -/
def after (c : Instr) (s : State) : State :=
  match exec c s with
  | .next t => t
  | .fault _ => s
  | .refused _ => s

theorem all_of {α : Type} {l : List α} {p : α → Bool} {P : α → Prop} (h : ∀ a, p a = true → P a) (hl : l.all p = true) :
    ∀ a ∈ l, P a := fun a ha => h a (List.all_eq_true.mp hl a ha)

/-- What holds of the power-on record and of every listed slot holds of every slot. -/
theorem forall_grant {s : State} {P : SlotIx → Grant → Prop} (h0 : ∀ i, P i (freeRecord 0))
    (h : ∀ i ∈ s.slots, P i (s.grant i)) (i : SlotIx) : P i (s.grant i) := by
  by_cases hi : s.grant i = freeRecord 0
  · rw [hi]; exact h0 i
  · exact h i (mem_of_grantAt_ne hi)

/-- The same, with the listed slots checked by evaluation. -/
theorem forall_grant_check {s : State} {P : SlotIx → Grant → Prop} [∀ i, Decidable (P i (s.grant i))]
    (h0 : ∀ i, P i (freeRecord 0)) (h : (s.slots.all fun i => decide (P i (s.grant i))) = true) (i : SlotIx) :
    P i (s.grant i) :=
  forall_grant h0 (fun i hi => of_decide_eq_true (List.all_eq_true.mp h i hi)) i

/-- What holds of every slot that reads as an unlisted one and of every listed slot holds of every slot. -/
theorem forall_slot (s : State) {P : SlotIx → Prop} [DecidablePred P] (h0 : ∀ i, s.grant i = freeRecord 0 → P i)
    (h : (s.slots.all fun i => decide (P i)) = true) (i : SlotIx) : P i := by
  by_cases hi : s.grant i = freeRecord 0
  · exact h0 i hi
  · exact of_decide_eq_true (List.all_eq_true.mp h i (mem_of_grantAt_ne hi))

/-- A slot that reads as an unlisted one has no ancestors. -/
theorem ancestors_of_unlisted {s : State} {i : SlotIx} (h : s.grant i = freeRecord 0) : s.ancestors i = [] := by
  have hp : (grantAt s.grants i).parent = none := by rw [← State.grant_eq, h]; rfl
  simp only [State.ancestors, ancestorsUpTo, hp]

/-- No slot is eligible to free, as a test. -/
theorem noneEligible_of {s : State} (h : s.slots.find? s.eligible = none) : ∀ i, s.eligible i = false :=
  State.find_eligible_none.mp h

/-! ## Sample states -/

/-- Every agent ACTIVE, and else the state after reset. -/
def calm : State := { State.reset with agents := Vector.replicate 16 ⟨.active, false, 1024, 4, false⟩ }

/-- A root grant 3/1 of agent 2 over bytes 4096–5119, with every right and one child. -/
def rootGrant : Grant where
  state := .live
  generation := 1
  grantee := 2
  base := 16
  length := 4
  rights := ⟨true, true, true⟩
  ownerLabel := 7
  codeMatches := true
  parent := none
  depth := 0
  children := [4]
  lease := none
  damaged := false
  noticeOwed := none

/-- Its child 4/2, of agent 1, with one right and a lease of 5. -/
def childGrant : Grant :=
  { rootGrant with
    generation := 2, grantee := 1, base := 17, length := 2, rights := ⟨true, false, false⟩, parent := some 3, depth := 1,
    children := [], lease := some 5 }

/-- A root grant 6/0 of agent 5 that drains behind one access. -/
def drainingGrant : Grant :=
  { rootGrant with state := .draining, generation := 0, grantee := 5, base := 40, length := 1, children := [] }

/-- The access under 6/0. -/
def drainingEntry : Entry := ⟨.issued, 5, 2, 6, .write, 10240, 1⟩

/-- The REVOKE of 6/0. -/
def revokeOfSix : RetireOp := ⟨.revoke, 9, some 6, [6], some 3, false⟩

/-- Every slot but these three, slot 0 at the head. -/
def otherSlots : List SlotIx := 0 :: (allBelow 1024).filter fun i => decide (i ≠ 0 ∧ i ≠ 3 ∧ i ≠ 4 ∧ i ≠ 6)

/-- Three grants, one of them draining under an open REVOKE behind one access, and one enabled exclusion range. -/
def busy : State :=
  { calm with
    grants := [(3, rootGrant), (4, childGrant), (6, drainingGrant)]
    freeList := otherSlots
    tracker := (Vector.replicate 64 Entry.emptied).set 1 drainingEntry
    retire := (Vector.replicate 8 none).set 0 (some revokeOfSix)
    reserved := 1
    ranges := (Vector.replicate 4 ⟨false, 0, 0⟩).set 1 ⟨true, 100, 10⟩ }

/-- The busy state with one record queued. -/
def queued (r : CommandRecord) : State := { busy with commandQueue := [r] }

/-- The busy state with one request on the lane of its grantee. -/
def asked (a : AgentIx) (q : Request) : State := { busy with lanes := (Vector.replicate 16 none).set a (some q) }

/-! ## The invariants hold of the busy state, which is not the state after reset -/

theorem busy_freeList : busy.freeList = otherSlots := rfl

theorem busy_grant_ne {i : SlotIx} (h : i ≠ 3 ∧ i ≠ 4 ∧ i ≠ 6) : busy.grant i = freeRecord 0 := by
  have h3 : (3 : SlotIx) ≠ i := fun e => h.1 e.symm
  have h4 : (4 : SlotIx) ≠ i := fun e => h.2.1 e.symm
  have h6 : (6 : SlotIx) ≠ i := fun e => h.2.2 e.symm
  show grantAt [(3, rootGrant), (4, childGrant), (6, drainingGrant)] i = _
  simp only [grantAt, if_neg h3, if_neg h4, if_neg h6]

theorem witness_freeListSound : FreeListSound busy where
  canonical := by decide +kernel
  values i := by
    by_cases h : i ≠ 3 ∧ i ≠ 4 ∧ i ≠ 6
    · rw [busy_grant_ne h]; intro _; rfl
    · have : i = 3 ∨ i = 4 ∨ i = 6 := by tauto
      rcases this with rfl | rfl | rfl <;> decide +kernel
  nodup := by
    rw [busy_freeList, otherSlots, List.nodup_cons]
    exact ⟨by simp, (allBelow_nodup 1024).filter _⟩
  exact i := by
    rw [busy_freeList, otherSlots, List.mem_cons, List.mem_filter]
    by_cases h : i ≠ 3 ∧ i ≠ 4 ∧ i ≠ 6
    · rw [busy_grant_ne h]
      by_cases h0 : i = 0 <;> simp [freeRecord, h, h0]
    · have : i = 3 ∨ i = 4 ∨ i = 6 := by tauto
      rcases this with rfl | rfl | rfl <;> simp <;> decide +kernel

theorem witness_windowsSound : WindowsSound busy where
  length := forall_grant_check (P := fun _ g => g.state ≠ .free → 1 ≤ g.length ∧ g.length ≤ 2 ^ 24)
    (fun _ h => absurd rfl h) (by decide +kernel)
  space := forall_grant_check (P := fun _ g => g.state ≠ .free → g.base.toNat + g.length ≤ 2 ^ 32)
    (fun _ h => absurd rfl h) (by decide +kernel)
  rights := forall_grant_check (P := fun _ g => g.state ≠ .free → g.rights ≠ Rights.none)
    (fun _ h => absurd rfl h) (by decide +kernel)
  enabled := by decide +kernel
  disabled := by decide +kernel
  excluded := forall_grant_check (P := fun _ g => g.state ≠ .free → ∀ x : RangeIx, busy.ranges[x].enabled = true →
      ¬ (busy.ranges[x].base.toNat < g.base.toNat + g.length ∧
        g.base.toNat < busy.ranges[x].base.toNat + busy.ranges[x].length))
    (fun _ h => absurd rfl h) (by decide +kernel)

theorem busy_parent {i p : SlotIx} (h : (busy.grant i).parent = some p) : i = 4 ∧ p = 3 := by
  have := forall_grant (s := busy) (P := fun i g => ∀ p, g.parent = some p → i = 4 ∧ p = 3)
    (fun _ _ h => by cases h) (by
      intro i hi p hp
      have hi' : i ∈ [(3 : SlotIx), 4, 6] := hi
      simp only [List.mem_cons, List.not_mem_nil, or_false] at hi'
      rcases hi' with rfl | rfl | rfl
      · cases hp
      · exact ⟨rfl, (Option.some.inj hp).symm⟩
      · cases hp) i
  exact this p h

theorem witness_treeSound : TreeSound busy where
  depth := forall_grant_check (P := fun _ g => g.depth ≤ 3) (fun _ => by decide) (by decide +kernel)
  root := forall_grant_check (P := fun _ g => g.parent = none → g.depth = 0) (fun _ _ => rfl) (by decide +kernel)
  parent i p h := by
    obtain ⟨rfl, rfl⟩ := busy_parent h
    exact ⟨by decide +kernel, by decide +kernel, by decide +kernel, by decide +kernel, by decide +kernel,
      by decide +kernel⟩
  children i j := by
    constructor
    · intro h
      have := forall_grant (s := busy) (P := fun i g => j ∈ g.children → i = 3 ∧ j = 4)
        (fun _ h => by cases h) (by
          intro i hi hj
          have hi' : i ∈ [(3 : SlotIx), 4, 6] := hi
          simp only [List.mem_cons, List.not_mem_nil, or_false] at hi'
          rcases hi' with rfl | rfl | rfl
          · exact ⟨rfl, List.mem_singleton.mp hj⟩
          · cases hj
          · cases hj) i h
      obtain ⟨rfl, rfl⟩ := this
      decide +kernel
    · intro h
      obtain ⟨rfl, rfl⟩ := busy_parent h
      decide +kernel
  sorted := forall_grant_check (P := fun _ g => g.children.Pairwise (· < ·)) (fun _ => List.Pairwise.nil) (by decide +kernel)

theorem witness_grantsSound : GrantsSound busy := ⟨witness_freeListSound, witness_windowsSound, witness_treeSound⟩

theorem busy_retire {k : RetireIx} {op : RetireOp} (h : busy.retire[k] = some op) : k = 0 ∧ op = revokeOfSix := by
  have hk : ∀ k : RetireIx, busy.retire[k] = if k = 0 then some revokeOfSix else none := by decide +kernel
  rw [hk k] at h
  split at h
  · rename_i h0; exact ⟨h0, (Option.some.inj h).symm⟩
  · cases h

theorem witness_retireSound : RetireSound busy where
  nonempty k op h := by obtain ⟨rfl, rfl⟩ := busy_retire h; decide
  nodup k op h := by obtain ⟨rfl, rfl⟩ := busy_retire h; decide
  draining k op h := by obtain ⟨rfl, rfl⟩ := busy_retire h; decide +kernel
  closed k op h := by
    obtain ⟨rfl, rfl⟩ := busy_retire h
    intro i hi j hj
    obtain ⟨_, rfl⟩ := busy_parent hj
    exact absurd hi (by decide)
  timer k op h := by
    obtain ⟨rfl, rfl⟩ := busy_retire h
    intro n hn
    cases hn
    decide
  timeout := by decide
  onePurge j k o p hj hk := by
    obtain ⟨rfl, rfl⟩ := busy_retire hj
    intro h; cases h
  purging k op h := by obtain ⟨rfl, rfl⟩ := busy_retire h; intro h; cases h
  open_ h := by cases h

theorem witness_drainingSound : DrainingSound busy := ⟨witness_grantsSound, witness_retireSound⟩

theorem witness_queuesSound : QueuesSound busy :=
  ⟨by decide, by decide, by decide +kernel, fun h => absurd h (by decide), fun h => absurd h (by decide)⟩

theorem witness_processorSound : ProcessorSound busy :=
  ⟨by decide, fun h => absurd h (by decide), fun _ => rfl, rfl⟩

theorem witness_trackerSound : TrackerSound busy :=
  ⟨by decide +kernel, by decide +kernel, by decide +kernel, by decide +kernel⟩

theorem witness_agentsSound : AgentsSound busy := ⟨by decide +kernel, by decide +kernel, by decide +kernel⟩

theorem witness_leasesSound : LeasesSound busy where
  range := forall_grant (P := fun _ g => ∀ n, g.lease = some n → 1 ≤ n ∧ n ≤ 1048575)
    (fun _ _ h => by cases h) (by
      intro i hi n hn
      have hi' : i ∈ [(3 : SlotIx), 4, 6] := hi
      simp only [List.mem_cons, List.not_mem_nil, or_false] at hi'
      rcases hi' with rfl | rfl | rfl
      · cases hn
      · have : n = 5 := (Option.some.inj hn).symm
        subst this; decide
      · cases hn)
  owed := forall_grant (P := fun _ g => ∀ n, g.noticeOwed = some n → g.state = .draining ∧ g.lease = none)
    (fun _ _ h => by cases h) (by
      intro i hi n hn
      have hi' : i ∈ [(3 : SlotIx), 4, 6] := hi
      simp only [List.mem_cons, List.not_mem_nil, or_false] at hi'
      rcases hi' with rfl | rfl | rfl <;> cases hn)
  places h := by
    have : busy.owesNotice = false := by decide +kernel
    rw [this] at h; cases h

theorem witness_nothingEligible : NothingEligible busy := noneEligible_of (by decide +kernel)

/-- Each invariant's statement concerns a command that answers a next state from such a state. -/
theorem witness_kept (c : Instr) : ∃ t, exec c busy = .next t := by
  cases c <;> exact ⟨_, rfl⟩

/-! ## The machine and the resets -/

theorem witness_step : { calm with pending := [.resume, .purge] }.pending = .resume :: [.purge] := rfl
theorem witness_idle : State.reset.pending = [] := rfl
theorem witness_inReset : ∃ t, exec .powerOnReset busy = .next t ∧ t.inReset = true ∧ Instr.push 0 ≠ .powerOnReset ∧
    Instr.push 0 ≠ .hardwareReset ∧ Instr.push 0 ≠ .resetRelease ∧ Instr.push 0 ≠ .csAsserted ∧
    Instr.push 0 ≠ .csDeasserted := ⟨_, rfl, rfl, by decide, by decide, by decide, by decide, by decide⟩
theorem witness_outOfReset : busy.inReset = false ∧ busy.csAsserted = false ∧ busy.freeDraws = 0 ∧ busy.pending = [] := by
  decide

/-! ## The agent port -/

/-- A READ of the whole window of 3/1: 1024 bytes. -/
def wholeRead : Request := ⟨0, 0x0403, 0, 1024, .read, []⟩

theorem witness_presentation : busy.inReset = false ∧ busy.lanes[(2 : AgentIx)] = none ∧
    (asked 2 wholeRead).lanes[(2 : AgentIx)] = some wholeRead := by decide +kernel

theorem witness_nextTake : NextTake (asked 2 wholeRead) 2 wholeRead :=
  nextTake_of rfl (by decide +kernel) (by decide +kernel)

/-- The pointer's own lane is taken last. -/
theorem witness_nextTake_own : NextTake { asked 2 wholeRead with lanePointer := 2 } 2 wholeRead :=
  nextTake_of rfl (by decide +kernel) (by decide +kernel)

theorem witness_passing : firstFailing (elevenChecks (asked 2 wholeRead) 2 wholeRead) = none := by decide +kernel

/-- The busy state with the fields of one grant written anew. -/
def withGrant (i : SlotIx) (g : Grant) (s : State) : State := s.setGrant i g

/-- The fields of 3/1 and of 6/0 do not match their codes. -/
def mismatchedTwice : State :=
  withGrant 6 { drainingGrant with codeMatches := false } (withGrant 3 { rootGrant with codeMatches := false } busy)

/-- A request on a lane, and the check at which it fails first. -/
def failsAt (p : State × AgentIx × Request × FaultKind) : Bool :=
  !p.1.inReset && decide (nextLane p.1 = some p.2.1) && decide (p.1.lanes[p.2.1] = some p.2.2.1)
    && decide (firstFailing (elevenChecks p.1 p.2.1 p.2.2.1) = some p.2.2.2)

theorem failsAt_spec (p : State × AgentIx × Request × FaultKind) (h : failsAt p = true) :
    NextTake p.1 p.2.1 p.2.2.1 ∧ firstFailing (elevenChecks p.1 p.2.1 p.2.2.1) = some p.2.2.2 := by
  simp only [failsAt, Bool.and_eq_true, Bool.not_eq_true', decide_eq_true_eq] at h
  exact ⟨nextTake_of h.1.1.1 h.1.1.2 h.1.2, h.2⟩

/-- Each of the eleven checks in turn, at the boundary of its range, and the damaged flag set as well as found. -/
def failing : List (State × AgentIx × Request × FaultKind) :=
  let ask (a : AgentIx) (q : Request) (f : FaultKind) := (asked a q, a, q, f)
  [({ asked 2 wholeRead with runState := .stopped, processor := ⟨.stopped, 0, none⟩ }, 2, wholeRead, .stopped),
   ({ asked 2 wholeRead with agents := busy.agents.set 2 ⟨.active, true, 1024, 4, false⟩ }, 2, wholeRead, .agentBlocked),
   ask 2 { wholeRead with length := 0 } .malformedRequest, ask 2 { wholeRead with length := 4097 } .malformedRequest,
   ask 5 ⟨2, 6, 0, 1, .write, [1]⟩ .duplicateTag, ask 2 { wholeRead with handle := 0x0003 } .stale,
   (withGrant 3 { rootGrant with damaged := true } (asked 2 wholeRead), 2, wholeRead, .damaged),
   (withGrant 3 { rootGrant with codeMatches := false } (asked 2 wholeRead), 2, wholeRead, .damaged),
   ask 5 ⟨0, 6, 0, 1, .write, [1]⟩ .revoked,
   (withGrant 3 { rootGrant with state := .suspended } (asked 1 { wholeRead with handle := 0x0804, length := 512 }), 1,
     { wholeRead with handle := 0x0804, length := 512 }, .suspended),
   ask 3 wholeRead .notGrantee, ask 1 ⟨0, 0x0804, 0, 1, .write, [1]⟩ .rights,
   ask 2 { wholeRead with offset := 1 } .bounds]

theorem witness_failing : ∀ p ∈ failing, NextTake p.1 p.2.1 p.2.2.1 ∧
    firstFailing (elevenChecks p.1 p.2.1 p.2.2.1) = some p.2.2.2 := all_of failsAt_spec (by decide +kernel)

/-! ## Completions, freeing and draining -/

/-- One READ of four bytes is in flight under 4/2, so that each of the three grants is held. -/
def held : State :=
  { busy with tracker := busy.tracker.set 2 ⟨.issued, 1, 3, 4, .read, 4352, 4⟩ }

theorem witness_completion : held.inReset = false ∧ held.tracker[(2 : EntryIx)].state = .issued ∧
    (held.grant held.tracker[(2 : EntryIx)].grant).state ≠ .draining ∧ held.tracker[(2 : EntryIx)].kind = .read ∧
    held.tracker[(2 : EntryIx)].length = [1, 2, 3, (4 : Byte)].length ∧
    (held.grant held.tracker[(2 : EntryIx)].grant).base.toNat * 256 ≤ held.tracker[(2 : EntryIx)].address.toNat ∧
    held.tracker[(2 : EntryIx)].address.toNat - (held.grant held.tracker[(2 : EntryIx)].grant).base.toNat * 256 < 2 ^ 32 := by
  decide +kernel

/-- One WRITE is in flight under 3/1. -/
def writing : State := { busy with tracker := busy.tracker.set 2 ⟨.issued, 2, 3, 3, .write, 4096, 4⟩ }

theorem witness_completion_write : writing.tracker[(2 : EntryIx)].state = .issued ∧
    (writing.grant writing.tracker[(2 : EntryIx)].grant).state ≠ .draining ∧
    writing.tracker[(2 : EntryIx)].kind = .write := by decide +kernel

/-- A READ is in flight under 6/0, which drains. -/
def readingUnderDraining : State := { busy with tracker := busy.tracker.set 1 { drainingEntry with kind := .read } }

theorem witness_completion_draining :
    (busy.grant busy.tracker[(1 : EntryIx)].grant).state = .draining ∧ busy.tracker[(1 : EntryIx)].kind = .write ∧
    readingUnderDraining.tracker[(1 : EntryIx)].state = .issued ∧
    readingUnderDraining.tracker[(1 : EntryIx)].kind = .read ∧
    readingUnderDraining.tracker[(1 : EntryIx)].length = [(7 : Byte)].length ∧
    (busy.grant 6).base.toNat * 256 ≤ busy.tracker[(1 : EntryIx)].address.toNat := by decide +kernel

theorem witness_completion_empty : busy.tracker[(63 : EntryIx)].state = .empty ∧ busy.runState = .running := by decide +kernel

theorem witness_completion_abandoned : { busy with
    tracker := busy.tracker.set 2 ⟨.abandoned, 0, 0, 0, .read, 0, 4⟩ }.tracker[(2 : EntryIx)].state = .abandoned := by
  decide +kernel

theorem witness_lastCompletion : busy.tracker[(1 : EntryIx)].state = .issued ∧ busy.tracker[(1 : EntryIx)].kind = .write ∧
    (busy.grant 6).state = .draining ∧ (busy.grant 6).parent = none ∧ (busy.grant 6).children = [] ∧
    (busy.grant 6).noticeOwed = none ∧
    (∀ l : EntryIx, busy.tracker[l].state = .issued → busy.tracker[l].grant = 6 → l = 1) ∧
    (∀ l : RetireIx, l ≠ 0 → busy.retire[l] = none) ∧ busy.retire[(0 : RetireIx)] = some revokeOfSix ∧
    revokeOfSix.members = [6] ∧ revokeOfSix.kind = .revoke ∧ busy.processor.barrierTag = none := by decide +kernel

/-- The busy state after the access under 6/0 has gone, with the REVOKE holding 3/1 too. -/
def drained : State :=
  { busy with
    grants := [(3, { rootGrant with state := .draining }), (4, childGrant), (6, drainingGrant)]
    tracker := Vector.replicate 64 Entry.emptied
    retire := busy.retire.set 0 (some { revokeOfSix with members := [3, 6] }) }

theorem witness_freeing : drained.inReset = false ∧ drained.eligible 6 = true ∧
    (∀ j, j ≠ 6 → drained.eligible j = false) ∧ (drained.grant 6).parent ≠ some 6 ∧
    (drained.grant 6).parent = none ∧ (∃ m ∈ [(3 : SlotIx), 6], m ≠ 6) ∧ drained.processor.barrierTag = none := by
  refine ⟨rfl, by decide +kernel, fun j hj => ?_, by decide +kernel, by decide +kernel,
    ⟨3, by simp, by decide⟩, rfl⟩
  by_contra hc
  have hm : j ∈ drained.slots.filter drained.eligible :=
    List.mem_filter.mpr ⟨State.mem_slots_of_eligible (by simpa using hc), by simpa using hc⟩
  rw [show drained.slots.filter drained.eligible = [6] by decide +kernel] at hm
  exact hj (List.mem_singleton.mp hm)

theorem witness_lowestEligible : drained.grants.wf = true ∧ drained.eligible 6 = true ∧
    (∀ j, j < 6 → drained.eligible j = false) ∧ ∀ i, busy.eligible i = false :=
  ⟨by decide +kernel, by decide +kernel,
    forall_slot _ (fun i h _ => by rw [← Bool.not_eq_true, State.eligible_iff, h]; simp [freeRecord]) (by decide +kernel),
    witness_nothingEligible⟩

theorem witness_retireCompletion : { busy with
      retire := busy.retire.set 0 (some { revokeOfSix with members := [] }) }.retire[(0 : RetireIx)] =
    some { revokeOfSix with members := [] } ∧ busy.processor.barrierTag = none := by decide +kernel

theorem witness_purgeCompletion : { busy with
      retire := busy.retire.set 7 (some ⟨.purge, 9, none, [], none, true⟩)
      processor := ⟨.purging, 0, none⟩ }.retire[(7 : RetireIx)] = some ⟨.purge, 9, none, [], none, true⟩ := by
  decide +kernel

theorem witness_barrierCompletion : (∀ k : RetireIx, calm.retire[k] = none) ∧
    { calm with processor := ⟨.barrierWait, 0, some 8⟩ }.processor.state = .barrierWait ∧
    { calm with processor := ⟨.stopped, 0, some 8⟩ }.processor.state = .stopped := by decide +kernel

/-- A REVOKE in slot 2 and a PURGE in slot 5 have emptied, and a BARRIER waits. -/
def settling (p : ProcState) : State :=
  { calm with
    retire := (calm.retire.set 2 (some ⟨.revoke, 20, some 0x0403, [], none, true⟩)).set 5
      (some ⟨.purge, 50, none, [], some 4, false⟩)
    reserved := 3
    freezeLevel := 2
    processor := ⟨p, 0, some 8⟩ }

theorem witness_settle : (∀ i, (settling .barrierWait).eligible i = false) ∧
    (settling .barrierWait).processor.barrierTag = some 8 ∧ busy.processor.barrierTag = none :=
  ⟨noneEligible_of (by decide +kernel), rfl, rfl⟩

/-- R110: the completions in ascending retire-slot order, then the BARRIER's; the PURGE lowers the freeze level. -/
theorem test_settle_order : (settle (settling .barrierWait)).responseQueue =
      [.completion ⟨20, .drainedAbandoned, 5, some 0x0403, .absent⟩, .completion ⟨50, .ok, 7, none, .absent⟩,
       .completion ⟨8, .ok, 8, none, .absent⟩] ∧
    (settle (settling .barrierWait)).processor = ⟨.idle, 0, none⟩ ∧
    (settle (settling .stopped)).processor = ⟨.stopped, 0, none⟩ ∧
    (settle (settling .barrierWait)).reserved = 0 ∧ (settle (settling .barrierWait)).freezeLevel = 0 := by decide +kernel

/-- The notice of 6/0. -/
def noticeOfSix : Notice := ⟨6, 7, 5, 0⟩

/-- 6/0 owes a notice, and the response queue is as long as given. -/
def owing (n : Nat) : State :=
  { busy with
    grants := [(3, rootGrant), (4, childGrant), (6, { drainingGrant with noticeOwed := some noticeOfSix })]
    responseQueue := List.replicate n (.notice noticeOfSix) }

theorem witness_owedNotice : ∀ n ∈ [30, 31], (owing n).grants.wf = true ∧ ((owing n).grant 6).noticeOwed = some noticeOfSix ∧
    (∀ j, j < 6 → ((owing n).grant j).noticeOwed = none) ∧ (∀ j, (owing n).eligible j = false) ∧ 0 < (owing n).inFlight 6 ∧
    ((owing n).responseQueue.length + (owing n).reserved < 32 ↔ n = 30) ∧
    ((owing n).responseQueue.length + (owing n).reserved = 32 ↔ n = 31) := by
  intro n hn
  simp only [List.mem_cons, List.not_mem_nil, or_false] at hn
  rcases hn with rfl | rfl
  · exact ⟨by decide +kernel, by decide +kernel, forall_slot _ (fun i h _ => by rw [h]; rfl) (by decide +kernel),
      noneEligible_of (by decide +kernel), by decide +kernel, by decide +kernel, by decide +kernel⟩
  · exact ⟨by decide +kernel, by decide +kernel, forall_slot _ (fun i h _ => by rw [h]; rfl) (by decide +kernel),
      noneEligible_of (by decide +kernel), by decide +kernel, by decide +kernel, by decide +kernel⟩

/-- 4/2 and its parent 3/1 drain under a REVOKE and a BARRIER waits, all held by a notice that 4/2 owes; the response queue is
as long as given. -/
def lastHold (n : Nat) : State :=
  { calm with
    grants := [(3, { rootGrant with state := .draining }),
      (4, { childGrant with state := .draining, lease := none, noticeOwed := some ⟨0x0804, 7, 1, 0⟩ })]
    retire := (Vector.replicate 8 none).set 0 (some ⟨.revoke, 9, some 0x0403, [3, 4], none, false⟩)
    reserved := 2
    responseQueue := List.replicate n (.notice noticeOfSix)
    processor := ⟨.barrierWait, 0, some 8⟩ }

theorem witness_owedNotice_lastHold : ∀ n ∈ [29, 30], (lastHold n).inReset = false ∧ (lastHold n).grants.wf = true ∧
    ((lastHold n).grant 4).noticeOwed ≠ none ∧ (∃ head tail, (lastHold n).responseQueue = head :: tail) ∧
    ((lastHold n).responseQueue.length + (lastHold n).reserved < 32 ↔ n = 29) ∧
    (lastHold n).responseQueue.length + (lastHold n).reserved ≤ 32 := by
  intro n hn
  simp only [List.mem_cons, List.not_mem_nil, or_false] at hn
  rcases hn with rfl | rfl <;>
    exact ⟨by decide +kernel, by decide +kernel, by decide +kernel, ⟨_, _, rfl⟩, by decide +kernel, by decide +kernel⟩

/-- R64, R65: the pop lets the last hold go, so child and parent free and the REVOKE and the BARRIER complete behind the
notice, in the same happening. -/
theorem test_lastHold : (after (.pop 0) (lastHold 30)).responseQueue = List.replicate 29 (.notice noticeOfSix) ++
      [.notice ⟨0x0804, 7, 1, 0⟩, .completion ⟨9, .ok, 5, some 0x0403, .absent⟩, .completion ⟨8, .ok, 8, none, .absent⟩] ∧
    (after (.pop 0) (lastHold 30)).grants = [(3, freeRecord 2), (4, freeRecord 3)] ∧
    (after (.pop 0) (lastHold 30)).processor = ⟨.idle, 0, none⟩ ∧ (after (.pop 0) (lastHold 30)).reserved = 0 := by
  decide +kernel

theorem witness_drainTimeout : { busy with
      retire := busy.retire.set 0 (some { revokeOfSix with drainRemaining := some 0 }) }.retire[(0 : RetireIx)] =
    some { revokeOfSix with drainRemaining := some 0 } := by decide +kernel

/-! ## The lease clock -/

/-- The busy state in a stopped device. -/
def stoppedBusy : State := { busy with runState := .stopped, processor := ⟨.stopped, 0, none⟩ }

theorem witness_tick : busy.inReset = false ∧
    (∀ i, (busy.grant i).state.inUse = true → (busy.grant i).lease ≠ some 1 ∧ (busy.grant i).lease ≠ some 0) ∧
    revokeOfSix.members ≠ [] ∧ revokeOfSix.drainRemaining ≠ some 1 ∧ revokeOfSix.drainRemaining ≠ some 0 ∧
    (∀ i, busy.eligible i = false) ∧ busy.processor.barrierTag = none :=
  ⟨by decide, forall_grant_check (P := fun _ g => g.state.inUse = true → g.lease ≠ some 1 ∧ g.lease ≠ some 0)
    (fun _ _ => by decide) (by decide +kernel), by decide, by decide, by decide, witness_nothingEligible, by decide⟩

/-- The stopped device differs from the busy state in the run state and the processor alone. -/
theorem witness_tick_stopped : stoppedBusy.inReset = false ∧ stoppedBusy.grants = busy.grants ∧
    stoppedBusy.retire = busy.retire ∧ (∀ i, stoppedBusy.eligible i = false) ∧ stoppedBusy.processor.barrierTag = none ∧
    stoppedBusy.runState = .stopped := ⟨rfl, rfl, rfl, noneEligible_of (by decide +kernel), rfl, rfl⟩

/-- Two REVOKEs, each with one tick of its timer left: the lower slot's reaches entry 30, the higher slot's entry 10, both of
agent 2. -/
def twoTimers : State :=
  { calm with
    grants := [(5, { drainingGrant with base := 60 }), (6, drainingGrant)]
    freeList := [0]
    tracker := (calm.tracker.set 30 ⟨.issued, 2, 1, 5, .read, 15360, 1⟩).set 10 ⟨.issued, 2, 9, 6, .read, 10240, 1⟩
    retire := (calm.retire.set 0 (some ⟨.revoke, 20, some 5, [5], some 1, false⟩)).set 1
      (some ⟨.revoke, 21, some 6, [6], some 1, false⟩)
    reserved := 2 }

theorem witness_tick_timers : twoTimers.inReset = false ∧ twoTimers.grants.wf = true ∧
    (∀ i, (twoTimers.grant i).state.inUse = true → (twoTimers.grant i).lease ≠ some 1 ∧ (twoTimers.grant i).lease ≠ some 0) ∧
    (countdown twoTimers).timersAtZero = [0, 1] :=
  ⟨rfl, by decide +kernel, forall_grant_check (P := fun _ g => g.state.inUse = true → g.lease ≠ some 1 ∧ g.lease ≠ some 0)
    (fun _ _ => by decide) (by decide +kernel), by decide +kernel⟩

/-- R24: the two timeouts of one tick answer agent 2 in ascending entry order. R114: each records its own error. -/
theorem test_timeouts_of_one_tick :
    (after .leaseTick twoTimers).out.responses = [⟨2, 9, .abandoned⟩, ⟨2, 1, .abandoned⟩] ∧
    (after .leaseTick twoTimers).errors = ⟨false, false, true, some ⟨.abandon, 0⟩, true⟩ ∧
    (after .leaseTick twoTimers).responseQueue = [.completion ⟨20, .drainedAbandoned, 5, some 5, .absent⟩,
      .completion ⟨21, .drainedAbandoned, 5, some 6, .absent⟩] := by decide +kernel

/-- 4/2 has the lease given, and the response queue is as long as given. -/
def leased (n places : Nat) : State :=
  { busy with
    grants := [(3, rootGrant), (4, { childGrant with lease := some n }), (6, drainingGrant)]
    responseQueue := List.replicate places (.notice noticeOfSix) }

/-- A lease at 0, with a place for the notice and with none. -/
theorem witness_lapse : ∀ places ∈ [30, 31], (leased 0 places).inReset = false ∧ (leased 0 places).grants.wf = true ∧
    ((leased 0 places).grant 4).state ≠ .free ∧ ((leased 0 places).grant 4).lease = some 0 ∧
    (32 ≤ (leased 0 places).responseQueue.length + (leased 0 places).reserved ↔ places = 31) := by decide +kernel

/-- 3/1 and its child 4/2 run out at the next tick, and the child's fields do not match their code. -/
def bothRunOut : State :=
  { busy with
    grants := [(3, { rootGrant with lease := some 1 }), (4, { childGrant with lease := some 1, codeMatches := false }),
      (6, drainingGrant)] }

theorem witness_lapses : bothRunOut.grants.wf = true ∧ (countdown bothRunOut).leasesAtZero = [3, 4] ∧
    (bothRunOut.grant 4).codeMatches = false ∧ (bothRunOut.grant 4).damaged = false := by decide +kernel

/-- R123, R124: the cascade of slot 3 counts the child, which lapses in its own turn with a count of 0, and whose mismatch
stops the device at the end of the tick. -/
theorem test_lapses_of_one_tick :
    (after .leaseTick bothRunOut).responseQueue = [.notice ⟨0x0403, 7, 2, 1⟩, .notice ⟨0x0804, 7, 1, 0⟩] ∧
    (after .leaseTick bothRunOut).errors.first = some ⟨.integrity, 4⟩ ∧
    (after .leaseTick bothRunOut).runState = .stopped ∧
    (after .leaseTick bothRunOut).processor.state = .stopped := by decide +kernel

/-! ## Host writes -/

theorem witness_push : calm.commandQueue = [] ∧ (queued ⟨4, 0, 0, 0, 0, 0⟩).commandQueue ≠ [] ∧
    (queued ⟨4, 0, 0, 0, 0, 0⟩).commandQueue.length < 32 ∧
    32 ≤ { calm with commandQueue := List.replicate 32 ⟨4, 0, 0, 0, 0, 0⟩ }.commandQueue.length := by decide +kernel

theorem witness_pop : calm.responseQueue = [] ∧ calm.owesNotice = false ∧
    { calm with responseQueue := [.notice noticeOfSix] }.responseQueue = .notice noticeOfSix :: [] := by decide +kernel

theorem witness_halted : { calm with processor := ⟨.halted, 0, none⟩ }.processor.state = .halted ∧
    calm.processor.state ≠ .halted := by decide

/-- Two records are to be discarded, with one place free. -/
def discarding (count : Nat) : State :=
  { calm with
    commandQueue := [⟨0x0401, 0, 0, 0, 0, 0⟩, ⟨0x050D, 0, 0, 0, 0, 1⟩]
    responseQueue := List.replicate 31 (.notice noticeOfSix)
    processor := ⟨.discarding, count, none⟩ }

theorem witness_discarding : ∀ n ∈ [1, 2], (discarding n).inReset = false ∧ (discarding n).processor.state = .discarding ∧
    (discarding n).owesNotice = false ∧ (discarding n).responseQueue.length + (discarding n).reserved < 32 ∧
    (discarding n).processor.discardCount = n := by decide +kernel

theorem witness_agentNumbers : (15 : Word).toNat = (15 : AgentIx).val ∧ 16 ≤ (16 : Word).toNat := by decide

/-! ## Takes -/

theorem witness_takeTest : busy.processor.state ∈ [ProcState.idle, .waitingSpace, .waitingRetire] ∧
    { busy with processor := ⟨.halted, 0, none⟩ }.processor.state ∉ [ProcState.idle, .waitingSpace, .waitingRetire] := by
  decide

/-- Eight operations are open. -/
def eightOpen : State := { queued ⟨0x0105, 0x0403, 0, 0, 0, 0⟩ with retire := Vector.replicate 8 (some revokeOfSix) }

theorem witness_takeTest_retire : (∀ k : RetireIx, eightOpen.retire[k] ≠ none) ∧ eightOpen.openCount = 8 ∧
    ¬ 32 ≤ eightOpen.responseQueue.length + eightOpen.reserved := by decide +kernel

theorem witness_noTake : calm.commandQueue = [] ∧ (discarding 1).processor.state ≠ .idle ∧ (owing 31).owesNotice = true ∧
    32 ≤ (owing 31).responseQueue.length + (owing 31).reserved ∧
    (CommandRecord.kind ⟨0x0105, 0x0403, 0, 0, 0, 0⟩ ≠ some .create) ∧
    CommandRecord.revoking ⟨0x0105, 0x0403, 0, 0, 0, 0⟩ = true := by decide +kernel

/-- A record that names no command, a record with its reserved bit set, and one with a bit set that its kind does not use. -/
theorem witness_malformed : ∀ p ∈ ([(⟨0x010F, 0, 0, 0, 0, 0⟩, none), (⟨0x00800104, 0x0804, 0, 0, 0, 0⟩, some .query),
      (⟨0x0104, 0x0804, 0, 0, 0, 0x80000000⟩, some .query)] : List (CommandRecord × Option CommandKind)),
    isReady (queued p.1) p.1 [] = true ∧ p.1.kind = p.2 ∧ (p.2 = some .query → p.1.outside (usedBits .query) = true) := by
  decide +kernel

/-- A due take of a record of the kind that fails first at the status given. -/
def refusedBy (k : CommandKind) (checks : State → CommandRecord → List (Status × Bool))
    (p : State × CommandRecord × Status) : Bool :=
  isReady p.1 p.2.1 [] && passesAs p.2.1 k && decide (firstFailing (checks p.1 p.2.1) = some p.2.2)

theorem refusedBy_spec {k : CommandKind} {checks : State → CommandRecord → List (Status × Bool)}
    (p : State × CommandRecord × Status) (h : refusedBy k checks p = true) :
    TakeReady p.1 p.2.1 [] ∧ Passes p.2.1 k ∧ firstFailing (checks p.1 p.2.1) = some p.2.2 := by
  simp only [refusedBy, Bool.and_eq_true, decide_eq_true_eq] at h
  exact ⟨takeReady_of h.1.1, passes_of h.1.2, h.2⟩

/-- A due take of a record of the kind that fails no check. -/
def acceptedBy (k : CommandKind) (checks : State → CommandRecord → List (Status × Bool)) (p : State × CommandRecord) : Bool :=
  isReady p.1 p.2 [] && passesAs p.2 k && decide (firstFailing (checks p.1 p.2) = none)

theorem acceptedBy_spec {k : CommandKind} {checks : State → CommandRecord → List (Status × Bool)} (p : State × CommandRecord)
    (h : acceptedBy k checks p = true) : TakeReady p.1 p.2 [] ∧ Passes p.2 k ∧ firstFailing (checks p.1 p.2) = none := by
  simp only [acceptedBy, Bool.and_eq_true, decide_eq_true_eq] at h
  exact ⟨takeReady_of h.1.1, passes_of h.1.2, h.2⟩

/-- A record queued in the busy state, and in the same state with other changes. -/
def inBusy (r : CommandRecord) : State × CommandRecord := (queued r, r)
def inBusyAt (r : CommandRecord) (st : Status) : State × CommandRecord × Status := (queued r, r, st)
def inChanged (f : State → State) (r : CommandRecord) (st : Status) : State × CommandRecord × Status := (f (queued r), r, st)

/-- CREATE tag 1 for agent 3 of the first worked sequence: READ, base 1024, length 16. -/
def createRecord : CommandRecord := ⟨0x00130101, 0, 1024, 16, 0, 0⟩

theorem witness_create : ∀ p ∈ [inBusy createRecord, inBusy ⟨0x00130101, 0, 0xFFFFFFFF, 1, 1048575, 0⟩],
    TakeReady p.1 p.2 [] ∧ Passes p.2 .create ∧ firstFailing (createChecks p.1 p.2) = none :=
  all_of acceptedBy_spec (by decide +kernel)

theorem witness_create_free : ∃ i free, (queued createRecord).freeList = i :: free := ⟨0, _, rfl⟩

/-- No slot is free, and agent 3 (or 1) may hold no grant. -/
def noFree (s : State) : State := { s with freeList := [] }
def noQuota (s : State) : State := { s with agents := Vector.replicate 16 ⟨.active, false, 0, 4, false⟩ }

theorem witness_create_refused : ∀ p ∈ [inBusyAt ⟨0x00130101, 0, 1024, 0, 0, 0⟩ .malformed,
      inBusyAt ⟨0x00130101, 0, 0, 16777217, 0, 0⟩ .malformed, inBusyAt ⟨0x00130101, 0, 0, 1, 1048576, 0⟩ .malformed,
      inBusyAt ⟨0x00130101, 0, 0xFFFFFFFF, 2, 0, 0⟩ .badRange, inBusyAt ⟨0x00130101, 0, 109, 1, 0, 0⟩ .excluded,
      inChanged noQuota createRecord .quota, inChanged noFree createRecord .noFreeSlot],
    TakeReady p.1 p.2.1 [] ∧ Passes p.2.1 .create ∧ firstFailing (createChecks p.1 p.2.1) = some p.2.2 :=
  all_of refusedBy_spec (by decide +kernel)

/-- DERIVE from 3/1 of its last three granules, READ for agent 1. -/
def deriveRecord : CommandRecord := ⟨0x00110202, 0x0403, 1, 3, 0, 0⟩

theorem witness_derive : ∀ p ∈ [inBusy deriveRecord],
    TakeReady p.1 p.2 [] ∧ Passes p.2 .derive ∧ firstFailing (deriveChecks p.1 p.2) = none :=
  all_of acceptedBy_spec (by decide +kernel)

theorem witness_derive_free : ∃ free, (queued deriveRecord).freeList = 0 :: free ∧
    ((queued deriveRecord).grant 0).state = .free := ⟨_, rfl, by decide +kernel⟩

theorem witness_derive_refused : ∀ p ∈ [inBusyAt ⟨0x00010202, 0x0403, 1, 3, 0, 0⟩ .malformed,
      inBusyAt ⟨0x00110202, 0x0003, 1, 3, 0, 0⟩ .notLive,
      inChanged (withGrant 3 { rootGrant with damaged := true }) deriveRecord .damaged,
      inChanged (withGrant 3 { rootGrant with codeMatches := false }) deriveRecord .damaged,
      inBusyAt ⟨0x00110202, 0x0804, 0, 1, 0, 0⟩ .notDelegable,
      inChanged (withGrant 3 { rootGrant with depth := 3 }) deriveRecord .depth,
      inChanged (withGrant 3 { rootGrant with rights := ⟨false, true, true⟩ }) deriveRecord .notSubset,
      inBusyAt ⟨0x00110202, 0x0403, 1, 4, 0, 0⟩ .badRange, inChanged noQuota deriveRecord .quota,
      inChanged noFree deriveRecord .noFreeSlot],
    TakeReady p.1 p.2.1 [] ∧ Passes p.2.1 .derive ∧ firstFailing (deriveChecks p.1 p.2.1) = some p.2.2 :=
  all_of refusedBy_spec (by decide +kernel)

/-- Five options at once, SUSPEND alone on a mismatch, and RESUME. -/
theorem witness_modify : ∀ p ∈ [inBusy ⟨0x1F100303, 0x00090804, 0, 1, 9, 0⟩,
      (withGrant 4 { childGrant with codeMatches := false } (queued ⟨0x10000303, 0x0804, 0, 0, 0, 0⟩),
        ⟨0x10000303, 0x0804, 0, 0, 0, 0⟩),
      (withGrant 4 { childGrant with state := .suspended } (queued ⟨0x20000303, 0x0804, 0, 0, 0, 0⟩),
        ⟨0x20000303, 0x0804, 0, 0, 0, 0⟩)],
    TakeReady p.1 p.2 [] ∧ Passes p.2 .modify ∧ firstFailing (modifyChecks p.1 p.2) = none :=
  all_of acceptedBy_spec (by decide +kernel)

theorem witness_modify_refused : ∀ p ∈ [inBusyAt ⟨0x00000303, 0x0804, 0, 0, 0, 0⟩ .malformed,
      inBusyAt ⟨0x30000303, 0x0804, 0, 0, 0, 0⟩ .malformed, inBusyAt ⟨0x20000303, 0x0804, 0, 0, 0, 0⟩ .notLive,
      inBusyAt ⟨0x04000303, 0x0006, 0, 0, 1, 0⟩ .notLive,
      inChanged (withGrant 4 { childGrant with damaged := true }) ⟨0x04000303, 0x0804, 0, 0, 9, 0⟩ .damaged,
      inBusyAt ⟨0x02000303, 0x0403, 0, 3, 0, 0⟩ .hasDescendants, inBusyAt ⟨0x01300303, 0x0804, 0, 0, 0, 0⟩ .notSubset,
      inBusyAt ⟨0x02000303, 0x0804, 0, 3, 0, 0⟩ .badRange],
    TakeReady p.1 p.2.1 [] ∧ Passes p.2.1 .modify ∧ firstFailing (modifyChecks p.1 p.2.1) = some p.2.2 :=
  all_of refusedBy_spec (by decide +kernel)

/-- A due take of a record of the kind. -/
def takenAs (k : CommandKind) (p : State × CommandRecord) : Bool := isReady p.1 p.2 [] && passesAs p.2 k

theorem takenAs_spec {k : CommandKind} {p : State × CommandRecord} (h : takenAs k p = true) :
    TakeReady p.1 p.2 [] ∧ Passes p.2 k := by
  simp only [takenAs, Bool.and_eq_true] at h
  exact ⟨takeReady_of h.1, passes_of h.2⟩

def queryRecord : CommandRecord := ⟨0x0104, 0x0804, 0, 0, 0, 0⟩
def staleQuery : CommandRecord := ⟨0x0104, 0x0004, 0, 0, 0, 0⟩

theorem witness_query : TakeReady (queued queryRecord) queryRecord [] ∧ Passes queryRecord .query ∧
    ((queued queryRecord).grant (handleSlot queryRecord.handle)).state ≠ .free ∧
    ((queued queryRecord).grant (handleSlot queryRecord.handle)).generation = handleGeneration queryRecord.handle ∧
    TakeReady (queued staleQuery) staleQuery [] ∧ Passes staleQuery .query ∧
    ((queued staleQuery).grant (handleSlot staleQuery.handle)).generation ≠ handleGeneration staleQuery.handle :=
  have h := takenAs_spec (p := inBusy queryRecord) (k := .query) (by decide +kernel)
  have h' := takenAs_spec (p := inBusy staleQuery) (k := .query) (by decide +kernel)
  ⟨h.1, h.2, by decide +kernel, by decide +kernel, h'.1, h'.2, by decide +kernel⟩

/-! ## Revoking commands -/

def revokeRecord : CommandRecord := ⟨0x0105, 0x0403, 0, 0, 0, 0⟩
def revokeAgentRecord : CommandRecord := ⟨0x00010106, 0, 0, 0, 0, 0⟩
def purgeRecord : CommandRecord := ⟨0x0107, 0, 0, 0, 0, 0⟩

/-- The record queued in the state where each grant is held. -/
def inHeld (r : CommandRecord) : State := { held with commandQueue := [r] }

theorem witness_nothingFrees (r : CommandRecord) (isMember : SlotIx → Prop) : NothingFreesAt (inHeld r) isMember where
  held i _ := forall_grant_check (s := inHeld r)
    (P := fun i g => g.state ≠ .free → 0 < held.inFlight i ∨ g.children ≠ [] ∨ g.noticeOwed ≠ none)
    (fun _ h => absurd rfl h) (show (held.slots.all fun i => decide ((held.grant i).state ≠ .free →
      0 < held.inFlight i ∨ (held.grant i).children ≠ [] ∨ (held.grant i).noticeOwed ≠ none)) = true by decide +kernel) i
  none := noneEligible_of (show held.slots.find? held.eligible = none by decide +kernel)
  nonempty k op h := by obtain ⟨rfl, rfl⟩ := busy_retire h; decide

theorem witness_revoking : (TakeReady (inHeld revokeRecord) revokeRecord [] ∧ Passes revokeRecord .revoke) ∧
    ((inHeld revokeRecord).grant (handleSlot revokeRecord.handle)).state ≠ .free ∧
    ((inHeld revokeRecord).grant (handleSlot revokeRecord.handle)).generation = handleGeneration revokeRecord.handle ∧
    (TakeReady (inHeld revokeAgentRecord) revokeAgentRecord [] ∧ Passes revokeAgentRecord .revokeAgent) ∧
    ((inHeld revokeAgentRecord).grant 4).state ≠ .free ∧
    ((inHeld revokeAgentRecord).grant 4).grantee = revokeAgentRecord.agent ∧
    TakeReady (inHeld purgeRecord) purgeRecord [] ∧ Passes purgeRecord .purge :=
  ⟨takenAs_spec (p := (inHeld revokeRecord, revokeRecord)) (by decide +kernel), by decide +kernel, by decide +kernel,
    takenAs_spec (p := (inHeld revokeAgentRecord, revokeAgentRecord)) (by decide +kernel), by decide +kernel,
    by decide +kernel, takenAs_spec (p := (inHeld purgeRecord, purgeRecord)) (by decide +kernel)⟩

/-- A root grant 8/1 with nothing under it. -/
def lone : State := { busy with grants := [(3, rootGrant), (4, childGrant), (6, drainingGrant), (8, { rootGrant with children := [] })] }
def revokeLone : CommandRecord := ⟨0x0105, 0x0408, 0, 0, 0, 0⟩
def revokeStale : CommandRecord := ⟨0x0105, 0x0008, 0, 0, 0, 0⟩

theorem witness_revokeAtOnce : (TakeReady { lone with commandQueue := [revokeLone] } revokeLone [] ∧
      Passes revokeLone .revoke) ∧
    (TakeReady { lone with commandQueue := [revokeStale] } revokeStale [] ∧ Passes revokeStale .revoke) ∧
    (lone.grant 8).generation ≠ handleGeneration revokeStale.handle ∧ (lone.grant 8).state.inUse = true ∧
    (lone.grant 8).generation = handleGeneration revokeLone.handle ∧ handleSlot revokeLone.handle = 8 ∧
    (lone.grant 8).codeMatches = true ∧ (lone.grant 8).parent = none ∧ (lone.grant 8).children = [] ∧
    (lone.grant 8).noticeOwed = none ∧ lone.inFlight 8 = 0 ∧ (∀ j, 8 ∉ lone.ancestors j) ∧ 8 ∉ revokeOfSix.members ∧
    ∀ j, lone.eligible j = false :=
  ⟨takenAs_spec (p := ({ lone with commandQueue := [revokeLone] }, revokeLone)) (by decide +kernel),
    takenAs_spec (p := ({ lone with commandQueue := [revokeStale] }, revokeStale)) (by decide +kernel),
    by decide +kernel, by decide +kernel, by decide +kernel, by decide +kernel, by decide +kernel, by decide +kernel,
    by decide +kernel, by decide +kernel, by decide +kernel,
    forall_slot _ (fun i h => by rw [ancestors_of_unlisted h]; simp) (by decide +kernel), by decide +kernel,
    noneEligible_of (by decide +kernel)⟩

def revokeIdleAgent : CommandRecord := ⟨0x000F0106, 0, 0, 0, 0, 0⟩

theorem witness_revokeAgentOfNone : (TakeReady (queued revokeIdleAgent) revokeIdleAgent [] ∧
      Passes revokeIdleAgent .revokeAgent) ∧
    ∀ j, (busy.grant j).state ≠ .free → (busy.grant j).codeMatches = true ∧
      ∀ p ∈ j :: busy.ancestors j, (busy.grant p).grantee ≠ revokeIdleAgent.agent :=
  ⟨takenAs_spec (p := inBusy revokeIdleAgent) (by decide +kernel),
    forall_grant_check (P := fun j g => g.state ≠ .free → g.codeMatches = true ∧
      ∀ p ∈ j :: busy.ancestors j, (busy.grant p).grantee ≠ revokeIdleAgent.agent)
      (fun _ h => absurd rfl h) (by decide +kernel)⟩

theorem witness_purgeOfNone : (TakeReady { calm with commandQueue := [purgeRecord] } purgeRecord [] ∧
      Passes purgeRecord .purge) ∧ ∀ j, (calm.grant j).state = .free :=
  ⟨takenAs_spec (p := ({ calm with commandQueue := [purgeRecord] }, purgeRecord)) (by decide +kernel), fun _ => rfl⟩

/-- A REVOKE of 3/1, whose child is free to go with it, a REVOKE_AGENT of agent 1 beside two slots that do not match their
codes, and a PURGE of three grants of which one is held. -/
theorem witness_revokesAtTheTake : (TakeReady (queued revokeRecord) revokeRecord [] ∧ Passes revokeRecord .revoke) ∧
    (queued revokeRecord).grants.wf = true ∧ ((queued revokeRecord).grant 3).state ≠ .free ∧
    ((queued revokeRecord).grant 3).generation = handleGeneration revokeRecord.handle ∧
    (TakeReady { mismatchedTwice with commandQueue := [revokeAgentRecord] } revokeAgentRecord [] ∧
      Passes revokeAgentRecord .revokeAgent) ∧ mismatchedTwice.grants.wf = true ∧
    TakeReady (queued purgeRecord) purgeRecord [] ∧ Passes purgeRecord .purge :=
  ⟨takenAs_spec (p := inBusy revokeRecord) (by decide +kernel), by decide +kernel, by decide +kernel, by decide +kernel,
    takenAs_spec (p := ({ mismatchedTwice with commandQueue := [revokeAgentRecord] }, revokeAgentRecord)) (by decide +kernel),
    by decide +kernel, takenAs_spec (p := inBusy purgeRecord) (by decide +kernel)⟩

/-- R107, R10: the child frees before its parent, and the REVOKE completes at its take. -/
theorem test_revoke_chain_at_once :
    (after .revoke { queued revokeRecord with freeList := [0] }).freeList = [0, 4, 3] ∧
    (after .revoke (queued revokeRecord)).responseQueue = [.completion ⟨1, .ok, 5, some 0x0403, .absent⟩] ∧
    (after .revoke (queued revokeRecord)).retire = busy.retire := by decide +kernel

/-- R105, R160: the scan records both mismatches, the device stops, and the take completes. -/
theorem test_revokeAgent_beside_mismatch :
    (after .revokeAgent { mismatchedTwice with commandQueue := [revokeAgentRecord] }).errors =
      ⟨true, false, false, some ⟨.integrity, 3⟩, true⟩ ∧
    (after .revokeAgent { mismatchedTwice with commandQueue := [revokeAgentRecord] }).processor.state = .stopped ∧
    (after .revokeAgent { mismatchedTwice with commandQueue := [revokeAgentRecord] }).responseQueue =
      [.completion ⟨1, .ok, 6, none, .absent⟩] := by decide +kernel

def barrierRecord : CommandRecord := ⟨0x0108, 0, 0, 0, 0, 0⟩

theorem witness_barrier : (TakeReady { calm with commandQueue := [barrierRecord] } barrierRecord [] ∧
      Passes barrierRecord .barrier) ∧ (∀ k : RetireIx, calm.retire[k] = none) ∧
    TakeReady (queued barrierRecord) barrierRecord [] ∧ ∃ k : RetireIx, (queued barrierRecord).retire[k] ≠ none :=
  ⟨takenAs_spec (p := ({ calm with commandQueue := [barrierRecord] }, barrierRecord)) (by decide +kernel),
    by decide +kernel, (takenAs_spec (p := inBusy barrierRecord) (k := .barrier) (by decide +kernel)).1, by decide +kernel⟩

/-! ## Agents, ranges, freeze level, configuration -/

/-- Agent 3 made ACTIVE with the highest quota and limit, auto-quarantine on. -/
theorem witness_agentSet : ∀ p ∈ [inBusy ⟨0x00030109, 0, 0, 0, 0, 200705⟩],
    TakeReady p.1 p.2 [] ∧ Passes p.2 .agentSet ∧ firstFailing (agentSetChecks p.1 p.2) = none :=
  all_of acceptedBy_spec (by decide +kernel)

/-- The settings are frozen. -/
def frozen (s : State) : State := { s with freezeLevel := 1 }

theorem witness_agentSet_refused : ∀ p ∈ [inBusyAt ⟨0x00030109, 0, 0, 0, 0, 1⟩ .malformed,
      inBusyAt ⟨0x00030109, 0, 0, 0, 0, 73729⟩ .malformed,
      inChanged frozen ⟨0x00030109, 0, 0, 0, 0, 200705⟩ .isProtected],
    TakeReady p.1 p.2.1 [] ∧ Passes p.2.1 .agentSet ∧ firstFailing (agentSetChecks p.1 p.2.1) = some p.2.2 :=
  all_of refusedBy_spec (by decide +kernel)

theorem witness_quarantine : takenAs .quarantine (inBusy ⟨0x0003010A, 0, 0, 0, 0, 0⟩) = true ∧
    takenAs .release (inBusy ⟨0x0003010B, 0, 0, 0, 0, 0⟩) = true ∧ busy.agents[(3 : AgentIx)].state = .active := by
  decide +kernel

/-- Range 3 disabled, and enabled over free granules that touch the window of 3/1. -/
theorem witness_excludeSet : ∀ p ∈ [inBusy ⟨0x010C, 0, 0, 0, 0, 3⟩, inBusy ⟨0x010C, 0, 20, 20, 0, 0x103⟩,
      inBusy ⟨0x010C, 0, 19, 1, 0, 0x103⟩],
    TakeReady p.1 p.2 [] ∧ Passes p.2 .excludeSet ∧ firstFailing (excludeSetChecks p.1 p.2) = none :=
  all_of acceptedBy_spec (by decide +kernel)

theorem witness_excludeSet_free : busy.grants.wf = true ∧ ∀ i, ¬ ((busy.grant i).state ≠ .free ∧
    (busy.grant i).base.toNat < 20 + 20 ∧ 20 < (busy.grant i).base.toNat + (busy.grant i).length) :=
  ⟨by decide +kernel, forall_grant_check (P := fun _ g => ¬ (g.state ≠ .free ∧ g.base.toNat < 20 + 20 ∧ 20 < g.base.toNat + g.length))
    (fun _ h => h.1 rfl) (by decide +kernel)⟩

theorem witness_excludeSet_conflict : ((busy.grant 3).state ≠ .free ∧ (busy.grant 3).base.toNat < 19 + 1 ∧
      19 < (busy.grant 3).base.toNat + (busy.grant 3).length) ∧
    ∀ j, j < 3 → (busy.grant j).state = .free :=
  ⟨by decide +kernel, forall_slot _ (fun i h _ => by rw [h]; rfl) (by decide +kernel)⟩

theorem witness_excludeSet_refused : ∀ p ∈ [inBusyAt ⟨0x010C, 0, 0, 0, 0, 4⟩ .malformed,
      inBusyAt ⟨0x010C, 0, 0, 0, 0, 0x103⟩ .malformed, inBusyAt ⟨0x010C, 0, 1, 0, 0, 3⟩ .malformed,
      inChanged frozen ⟨0x010C, 0, 0, 0, 0, 3⟩ .isProtected, inBusyAt ⟨0x010C, 0, 0xFFFFFFFF, 2, 0, 0x103⟩ .badRange],
    TakeReady p.1 p.2.1 [] ∧ Passes p.2.1 .excludeSet ∧ firstFailing (excludeSetChecks p.1 p.2.1) = some p.2.2 :=
  all_of refusedBy_spec (by decide +kernel)

theorem witness_freeze : ∀ p ∈ [inBusy ⟨0x010D, 0, 0, 0, 0, 2⟩, inBusy ⟨0x010D, 0, 0, 0, 0, 0⟩],
    TakeReady p.1 p.2 [] ∧ Passes p.2 .freeze ∧ firstFailing (freezeChecks p.1 p.2) = none :=
  all_of acceptedBy_spec (by decide +kernel)

theorem witness_freeze_refused : ∀ p ∈ [inBusyAt ⟨0x010D, 0, 0, 0, 0, 3⟩ .malformed,
      inChanged frozen ⟨0x010D, 0, 0, 0, 0, 0⟩ .isProtected],
    TakeReady p.1 p.2.1 [] ∧ Passes p.2.1 .freeze ∧ firstFailing (freezeChecks p.1 p.2.1) = some p.2.2 :=
  all_of refusedBy_spec (by decide +kernel)

theorem witness_configure : ∀ p ∈ [inBusy ⟨0x010E, 0, 0, 0, 0, 0xFFFF003B⟩],
    TakeReady p.1 p.2 [] ∧ Passes p.2 .configure ∧ firstFailing (configureChecks p.1 p.2) = none :=
  all_of acceptedBy_spec (by decide +kernel)

theorem witness_configure_refused : ∀ p ∈ [inBusyAt ⟨0x010E, 0, 0, 0, 0, 4⟩ .malformed,
      inBusyAt ⟨0x010E, 0, 0, 0, 0, 0x40⟩ .malformed, inChanged frozen ⟨0x010E, 0, 0, 0, 0, 3⟩ .isProtected],
    TakeReady p.1 p.2.1 [] ∧ Passes p.2.1 .configure ∧ firstFailing (configureChecks p.1 p.2.1) = some p.2.2 :=
  all_of refusedBy_spec (by decide +kernel)

/-! ## The service port, integrity, the registers -/

/-- A frame with the bytes given received. -/
def framed (received : List Byte) : State := { busy with csAsserted := true, service := ⟨.command, received, [], 0⟩ }

theorem witness_frames : (framed [3]).inReset = false ∧ (framed [3]).service.frame = .command ∧
    (framed [3]).service.received = [3] ∧ (16 : Byte).toNat = 16 ∧ (15 : Byte).toNat = (15 : AgentIx).val ∧
    busy.service.frame = .idle ∧ { busy with service := ⟨.ignoring, [], [], 0⟩ }.service.frame = .ignoring := by decide

theorem witness_answering : { busy with service := ⟨.answer, [1], [0x5A], 0⟩ }.service.answer[0]? = some 0x5A ∧
    { busy with service := ⟨.answer, [1], [0x5A], 1⟩ }.service.answer.length ≤
      { busy with service := ⟨.answer, [1], [0x5A], 1⟩ }.service.sent := by decide

theorem witness_grantRead : (framed [4, 3]).service.received = [4, 3] ∧
    (3 : Byte).toNat * 256 + (255 : Byte).toNat = (1023 : SlotIx).val ∧
    1024 ≤ (4 : Byte).toNat * 256 + (0 : Byte).toNat ∧ (framed [4, 3]).freezeLevel ≠ 2 ∧
    { framed [4, 3] with freezeLevel := 2 }.freezeLevel = 2 := by decide

/-- GRANT_READ acts in a stopped device too. -/
theorem witness_grantRead_stopped : { framed [4, 3] with runState := .stopped }.runState = .stopped ∧
    { framed [4, 3] with runState := .stopped }.inReset = false := by decide

theorem witness_integrity : (busy.grant 3).codeMatches = true ∧
    ((withGrant 3 { rootGrant with codeMatches := false } busy).grant 3).codeMatches = false ∧
    ((withGrant 3 { rootGrant with codeMatches := false } busy).grant 3).damaged = false := by decide +kernel

theorem witness_scan : mismatchedTwice.grants.wf = true ∧ ((List.finRange 1024).filter fun i =>
    decide ((mismatchedTwice.grant i).state ≠ .free ∧ (mismatchedTwice.grant i).codeMatches = false ∧
      (mismatchedTwice.grant i).damaged = false)) = [3, 6] := by decide +kernel

/-- R160: the lowest slot is the first error, and the other sets further. -/
theorem test_scan : (integrityScan mismatchedTwice).errors = ⟨true, false, false, some ⟨.integrity, 3⟩, true⟩ := by
  decide +kernel

/-- The busy state with one record at the head of the response queue, a fault held for the agent selected, and an error. -/
def showing (r : ResponseRecord) : State :=
  { busy with
    responseQueue := [r]
    faultSlots := busy.faultSlots.set 0 (some ⟨.bounds, 0x1425, 5, 6, .write, 3, true⟩)
    errors := ⟨false, true, false, some ⟨.stray, 63⟩, true⟩ }

/-- The QUERY of 4/2. -/
def queryOfFour : Completion :=
  ⟨3, .ok, 4, some 0x0804, .queried ⟨.live, 1, 17, 2, ⟨true, false, false⟩, 7, some 0x0403, 1, 0, some 5, 0, false, true⟩⟩

/-- Each form of head record. -/
def heads : List ResponseRecord :=
  [.completion ⟨2, .malformed, 5, some 0x0403, .absent⟩, .completion ⟨2, .conflict, 12, none, .conflicting 0x0403⟩,
   .completion queryOfFour, .notice noticeOfSix]

theorem witness_registers : busy.inReset = false ∧ busy.faultSlots[busy.faultSelect] = none ∧ busy.responseQueue = [] ∧
    ∀ r ∈ heads, (showing r).inReset = false ∧ (showing r).responseQueue = r :: [] ∧
      (showing r).faultSlots[(showing r).faultSelect] = some ⟨.bounds, 0x1425, 5, 6, .write, 3, true⟩ := by decide +kernel

theorem witness_registers_sound (r : ResponseRecord) : QueuesSound (showing r) :=
  ⟨witness_queuesSound.commands, (by decide : 1 + busy.reserved ≤ 32), witness_queuesSound.reserved,
    witness_queuesSound.barrier, witness_queuesSound.waiting⟩

/-- A take that passes reaches the memory port. -/
theorem witness_admitted : ∃ t m, exec .accessTake (asked 2 wholeRead) = .next t ∧ m ∈ t.out.requests :=
  ⟨_, _, rfl, List.mem_singleton.mpr rfl⟩

theorem witness_answered : ∃ t, exec .accessTake (asked 2 wholeRead) = .next t ∧ Instr.accessTake ≠ .powerOnReset ∧
    Instr.accessTake ≠ .hardwareReset ∧ ∀ q, Instr.accessTake ≠ .requestPresented 2 q :=
  ⟨_, rfl, by decide, by decide, fun _ h => by cases h⟩

/-! ## The worked sequences (chapter 13), one step at a time; the expected values are the spec's tables -/

/-- Sequence 1 at its start, with CREATE tag 1 queued; the free list is cut to its first two slots. -/
def seq1 : State :=
  { State.reset with
    agents := State.reset.agents.set 3 ⟨.active, false, 1024, 4, false⟩
    freeList := [0, 1]
    commandQueue := [createRecord] }

theorem test_seq1_create :
    ((after .create seq1).grant 0).state = .live ∧ ((after .create seq1).grant 0).base = 1024 ∧
    (after .create seq1).freeList = [1] ∧
    (after .create seq1).responseQueue = [.completion ⟨1, .ok, 1, some 0, .absent⟩] := by decide +kernel

/-- Sequence 1 after its first step, with the request of step 2 on lane 3. -/
def seq1asked : State :=
  { after .create seq1 with lanes := (Vector.replicate 16 none).set 3 (some ⟨0, 0, 0, 256, .read, []⟩) }

theorem test_seq1_take : (after .accessTake seq1asked).out.requests = [⟨0, .read, 262144, 256, none⟩] ∧
    (after .accessTake seq1asked).tracker[(0 : EntryIx)].state = .issued := by decide +kernel

/-- Sequence 1 before its step 4: one READ in flight, and REVOKE tag 2 queued. -/
def seq1revoking : State := { after .accessTake seq1asked with commandQueue := [⟨0x0205, 0, 0, 0, 0, 0⟩] }

theorem test_seq1_revoke : ((after .revoke seq1revoking).grant 0).state = .draining ∧
    (after .revoke seq1revoking).retire[(0 : RetireIx)] = some ⟨.revoke, 2, some 0, [0], some 1000, false⟩ ∧
    (after .revoke seq1revoking).reserved = 1 := by decide +kernel

/-- Step 5: a request under the DRAINING grant. -/
def seq1late : State :=
  { after .revoke seq1revoking with lanes := (Vector.replicate 16 none).set 3 (some ⟨2, 0, 0, 256, .read, []⟩) }

theorem test_seq1_fault : (after .accessTake seq1late).out.responses = [⟨3, 2, .fault .revoked⟩] ∧
    ((after .accessTake seq1late).faultSlots[(3 : AgentIx)].map HeldFault.kind) = some .revoked := by decide +kernel

/-- Step 7: the last completion frees slot 0 and completes the REVOKE. -/
def seq1end : State := after (.memoryCompletion 0 .ok (List.replicate 256 0)) (after .revoke seq1revoking)

theorem test_seq1_complete : seq1end.grant 0 = freeRecord 1 ∧ seq1end.freeList = [1, 0] ∧
    seq1end.retire[(0 : RetireIx)] = none ∧ seq1end.reserved = 0 ∧
    seq1end.responseQueue.getLast? = some (.completion ⟨2, .ok, 5, some 0, .absent⟩) := by decide +kernel

/-- Sequence 2 before its step 5: the chain 5/2, 6/0, 7/4 drains behind entry 10, with one tick of the timer left. -/
def seq2 : State :=
  { calm with
    grants := [(5, { rootGrant with state := .draining, generation := 2, children := [6] }),
      (6, { rootGrant with state := .draining, generation := 0, parent := some 5, depth := 1, children := [7] }),
      (7, { rootGrant with state := .draining, generation := 4, parent := some 6, depth := 2, children := [] })]
    freeList := [0]
    tracker := State.reset.tracker.set 10 ⟨.issued, 2, 9, 7, .read, 4096, 4⟩
    retire := State.reset.retire.set 0 (some ⟨.revoke, 20, some 0x0805, [5, 6, 7], some 1, false⟩)
    reserved := 1 }

theorem test_seq2_timeout : (after .leaseTick seq2).tracker[(10 : EntryIx)].state = .abandoned ∧
    (after .leaseTick seq2).out.responses = [⟨2, 9, .abandoned⟩] ∧ (after .leaseTick seq2).freeList = [0, 7, 6, 5] ∧
    (after .leaseTick seq2).errors.first = some ⟨.abandon, 0⟩ ∧ (after .leaseTick seq2).runState = .running ∧
    (after .leaseTick seq2).responseQueue = [.completion ⟨20, .drainedAbandoned, 5, some 0x0805, .absent⟩] := by
  decide +kernel

theorem test_seq2_generations : (after .leaseTick seq2).grants = [(5, freeRecord 3), (6, freeRecord 1), (7, freeRecord 5)] := by
  decide +kernel

/-- Sequence 3 at its start: 31 records, and three root grants with a lease of 1. -/
def seq3 : State :=
  { calm with
    grants := [(100, { rootGrant with generation := 1, children := [], lease := some 1 }),
      (200, { rootGrant with generation := 0, children := [], lease := some 1 }),
      (300, { rootGrant with generation := 2, children := [], lease := some 1 })]
    freeList := [0]
    responseQueue := List.replicate 31 (.notice noticeOfSix) }

theorem test_seq3_tick : (after .leaseTick seq3).responseQueue.length = 32 ∧
    ((after .leaseTick seq3).grant 100) = freeRecord 2 ∧ ((after .leaseTick seq3).grant 200).state = .draining ∧
    ((after .leaseTick seq3).grant 200).noticeOwed.isSome = true ∧
    ((after .leaseTick seq3).grant 300).noticeOwed.isSome = true := by decide +kernel

/-- Steps 2 and 3: a push finds no room, and a pop lets the notice of slot 200 through. -/
def seq3popped : State := after (.pop 0) (after (.push 0) { after .leaseTick seq3 with staging := ⟨0x0405, 0x092C, 0, 0, 0, 0⟩ })

theorem test_seq3_pop : seq3popped.responseQueue.length = 32 ∧ seq3popped.grant 200 = freeRecord 1 ∧
    (seq3popped.grant 300).state = .draining ∧ seq3popped.processor.state = .waitingSpace := by decide +kernel

/-- Step 3 of sequence 4: MODIFY selecting both SUSPEND and RESUME halts the processor. -/
theorem test_seq4_halt : (after .modify (queued ⟨0x30000303, 0x0804, 0, 0, 0, 0⟩)).processor.state = .halted := by
  decide +kernel

/-- Steps 6 and 7 of sequence 4: the removals that two pops make room for. -/
theorem test_seq4_discard : (after .discardRemoval (discarding 2)).processor = ⟨.discarding, 1, none⟩ ∧
    (after .discardRemoval (discarding 2)).responseQueue.getLast? = some (.completion ⟨4, .discarded, 1, none, .absent⟩) ∧
    (after .discardRemoval { discarding 1 with commandQueue := [⟨0x050D, 0, 0, 0, 0, 1⟩, createRecord] }).processor =
      ⟨.waitingSpace, 0, none⟩ := by decide +kernel

/-- Sequence 5 at its start, but for INT_ENABLE and the three responses. -/
def seq5 : State :=
  { calm with
    grants := [(40, { rootGrant with state := .draining, generation := 3, children := [] }),
      (41, { rootGrant with generation := 0, children := [] })]
    tracker := (((State.reset.tracker.set 2 ⟨.issued, 1, 0, 40, .read, 0, 4⟩).set 3 ⟨.issued, 1, 1, 40, .read, 0, 4⟩).set 4
      ⟨.issued, 8, 5, 41, .read, 0, 4⟩).set 6 ⟨.issued, 8, 2, 41, .read, 0, 4⟩
    lanes := State.reset.lanes.set 8 (some ⟨6, 41, 0, 4, .read, []⟩)
    retire := State.reset.retire.set 0 (some ⟨.revoke, 7, some 0x0C28, [40], none, false⟩)
    reserved := 1
    freezeLevel := 1 }

theorem test_seq5_softReset : (after .softReset seq5).out.responses =
      [⟨1, 0, .reset⟩, ⟨1, 1, .reset⟩, ⟨8, 5, .reset⟩, ⟨8, 2, .reset⟩, ⟨8, 6, .reset⟩] ∧
    (after .softReset seq5).grants = [(40, freeRecord 4), (41, freeRecord 1)] ∧
    (after .softReset seq5).level .abandoned = 4 ∧ (after .softReset seq5).retire[(0 : RetireIx)] = none ∧
    (after .softReset seq5).freezeLevel = 1 := by decide +kernel

/-! ## Register and service layouts -/

theorem test_ident : readRegister State.reset 0 = 0x0001064A := by decide +kernel

/-- RSP_WORD0 of a COMPLETION OK of kind 5 with tag 2: kind 1, tag, status, kind code. -/
theorem test_rspWord : readRegister { State.reset with
    responseQueue := [.completion ⟨2, .malformed, 5, some 0x0403, .absent⟩] } 16 = 0x05210201 ∧
    readRegister { State.reset with responseQueue := [.completion ⟨2, .malformed, 5, some 0x0403, .absent⟩] } 17 = 0x0403 := by
  decide +kernel

/-- RSP_WORD1–5 of the QUERY of 4/2, and RSP_WORD1 and 4 of a notice, by the table of R182. -/
theorem test_rspWords : ([17, 18, 19, 20, 21] : List (BitVec 5)).map (readRegister (showing (.completion queryOfFour))) =
      [0x00070804, 17, 0x52000002, 0x84000403, 0x00100005] ∧
    ([16, 17, 20] : List (BitVec 5)).map (readRegister (showing (.notice ⟨0x0403, 7, 2, 1023⟩))) =
      [2, 0x00070403, 0x0BFF0000] := by decide +kernel

/-- FAULT_WORD0–2 of a BOUNDS fault and ERROR_RECORD of a STRAY error, by the tables of R179. -/
theorem test_faultWords : ([28, 29, 30, 6] : List (BitVec 5)).map (readRegister (showing (.notice noticeOfSix))) =
    [0x14251393, 5, 6, 0x003F005A] := by decide +kernel

/-- AGENT_READ of an ACTIVE agent with quota 1024 and limit 4. -/
theorem test_agentRead : (after (.agentRead 1) (framed [3])).service.answer =
    [0x5A, 1, 4, 0, 4, 0, 1, 0] ++ List.replicate 10 0 := by decide +kernel

theorem test_decode_none : decodeTableWord 32 0 = none ∧ (busy.withFetchWord 32 0).pending = busy.pending := by decide

end Sys2Proof.Tests
end

section
/-! The blocks that the standing invariants of the table read, what one change of a command can do to them, and that every
command is a sequence of such changes. -/

namespace Sys2Proof.Machine

/-! ## The blocks -/

/-- The blocks of which the invariants of the table, the tracker, the agents and the windows speak. -/
structure Blocks where
  grants   : GrantTable
  freeList : List SlotIx
  tracker  : Vector Entry 64
  agents   : Vector Agent 16
  ranges   : Vector ExclusionRange 4

/-- The blocks of a state. -/
def State.blocks (s : State) : Blocks := ⟨s.grants, s.freeList, s.tracker, s.agents, s.ranges⟩

theorem State.blocks_eq_iff {s t : State} : t.blocks = s.blocks ↔ t.grants = s.grants ∧ t.freeList = s.freeList ∧
    t.tracker = s.tracker ∧ t.agents = s.agents ∧ t.ranges = s.ranges := by
  simp [State.blocks]

@[simp] theorem State.quiet_blocks (s : State) : s.quiet.blocks = s.blocks := rfl
@[simp] theorem State.post_blocks (s : State) (r : ResponseRecord) : (s.post r).blocks = s.blocks := rfl
@[simp] theorem State.postReserved_blocks (s : State) (c : Completion) : (s.postReserved c).blocks = s.blocks := rfl
@[simp] theorem State.setProc_blocks (s : State) (p : ProcState) : (s.setProc p).blocks = s.blocks := rfl
@[simp] theorem State.setRetire_blocks (s : State) (k : RetireIx) (op : Option RetireOp) :
    (s.setRetire k op).blocks = s.blocks := rfl
@[simp] theorem State.takeHead_blocks (s : State) (rest : List CommandRecord) : (s.takeHead rest).blocks = s.blocks := rfl
@[simp] theorem State.respond_blocks (s : State) (r : LaneResponse) : (s.respond r).blocks = s.blocks := rfl
@[simp] theorem State.respondAll_blocks (s : State) (rs : List LaneResponse) : (s.respondAll rs).blocks = s.blocks := rfl
@[simp] theorem State.sendMiso_blocks (s : State) (b : Byte) : (s.sendMiso b).blocks = s.blocks := rfl
@[simp] theorem State.setService_blocks (s : State) (p : ServicePort) : (s.setService p).blocks = s.blocks := rfl
@[simp] theorem State.setFaultSlot_blocks (s : State) (a : AgentIx) (f : Option HeldFault) :
    (s.setFaultSlot a f).blocks = s.blocks := rfl
@[simp] theorem recordError_blocks (c : ErrorClass) (d : Nat) (s : State) : (recordError c d s).blocks = s.blocks := rfl
@[simp] theorem clearPushRefused_blocks (s : State) : (clearPushRefused s).blocks = s.blocks := rfl
@[simp] theorem answerWith_blocks (b : List Byte) (r : Byte) (d : List Byte) (s : State) :
    (answerWith b r d s).blocks = s.blocks := rfl

@[simp] theorem takeTest_blocks (s : State) : (takeTest s).blocks = s.blocks := by rw [takeTest_frame]; rfl

@[simp] theorem stopProcessor_blocks (s : State) : (stopProcessor s).blocks = s.blocks := by
  unfold stopProcessor; split <;> rfl

@[simp] theorem endTake_blocks (r : CommandRecord) (v : Verdict) (s : State) : (endTake r v s).blocks = s.blocks := by
  cases v with
  | stays => exact stopProcessor_blocks s
  | completes st h res => by_cases hs : st.halts = true <;> simp [endTake, hs]

@[simp] theorem GrantState.inUse_free : GrantState.free.inUse = false := rfl
@[simp] theorem GrantState.inUse_live : GrantState.live.inUse = true := rfl
@[simp] theorem GrantState.inUse_suspended : GrantState.suspended.inUse = true := rfl
@[simp] theorem GrantState.inUse_draining : GrantState.draining.inUse = false := rfl

theorem GrantState.inUse_iff {st : GrantState} : st.inUse = true ↔ st = .live ∨ st = .suspended := by
  cases st <;> simp

/-! ## What one change can do -/

/-- A record but for its lease, its damaged flag and its notice: the parts that time and integrity reads write. -/
def Grant.shape (g : Grant) : Grant := { g with lease := none, damaged := false, noticeOwed := none }

theorem Grant.shape_eq_iff {g h : Grant} : g.shape = h.shape ↔ g.state = h.state ∧ g.generation = h.generation ∧
    g.grantee = h.grantee ∧ g.base = h.base ∧ g.length = h.length ∧ g.rights = h.rights ∧ g.ownerLabel = h.ownerLabel ∧
    g.codeMatches = h.codeMatches ∧ g.parent = h.parent ∧ g.depth = h.depth ∧ g.children = h.children := by
  simp [Grant.shape]

/-- A choice of slots by a condition on a slot or one of its ancestors: the members of every revoking command, and the
subtree of a lapse (R6, R103, R105, R106). -/
def State.ChosenByLine (s : State) (which : SlotIx → Bool) : Prop :=
  ∃ P : SlotIx → Prop, ∀ j, (s.grant j).state.inUse = true → (which j = true ↔ ∃ x ∈ j :: s.ancestors j, P x)

/-- CREATE and DERIVE accept the operands of a record (R82). -/
structure GoodOperands (r : CommandRecord) : Prop where
  rights : r.rights ≠ Rights.none
  low    : 1 ≤ r.length
  high   : r.length ≤ 2 ^ 24

/-- A parent grants a DERIVE (R85). -/
structure GrantsDerive (parent : Grant) (r : CommandRecord) : Prop where
  live   : parent.state = .live
  depth  : parent.depth < 3
  rights : r.rights.subset parent.rights = true
  length : r.base.toNat + r.length ≤ parent.length

/-- A grant accepts a MODIFY (R91–R94). -/
structure AcceptsModify (g : Grant) (r : CommandRecord) : Prop where
  inUse  : g.state.inUse = true
  rights : r.setRights = true → r.rights ≠ Rights.none ∧ r.rights.subset g.rights = true
  length : r.setLength = true → 1 ≤ r.length ∧ r.length ≤ g.length
  leaf   : g.children ≠ [] → (r.setRights = true → r.rights = g.rights) ∧ (r.setLength = true → r.length = g.length)

/-- A range holds values that no non-FREE window overlaps, or is disabled with zeros (R146, R147). -/
def State.RangeFits (s : State) (x : ExclusionRange) : Prop :=
  (x.enabled = false ∧ x.base = 0 ∧ x.length = 0) ∨
    (x.enabled = true ∧ 1 ≤ x.length ∧ x.length ≤ 2 ^ 24 ∧ x.base.toNat + x.length ≤ 2 ^ 32 ∧
      ∀ i, (s.grant i).state ≠ .free → ¬ (x.base.toNat < (s.grant i).base.toNat + (s.grant i).length ∧
        (s.grant i).base.toNat < x.base.toNat + x.length))

/-- One change that a command can make to the blocks. -/
inductive Change (s : State) : State → Prop
  /-- Leases, damaged flags and notices of slots that do not read as FREE, and every other block. -/
  | bookkeeping {t : State} (wf : s.grants.wf = true → t.grants.wf = true)
      (shape : ∀ i, (t.grant i).shape = (s.grant i).shape)
      (free : ∀ i, s.grant i = freeRecord (s.grant i).generation → t.grant i = s.grant i)
      (others : t.blocks = { s.blocks with grants := t.grants }) : Change s t
  /-- Entry to DRAINING (R6). -/
  | drain {which : SlotIx → Bool} (line : s.ChosenByLine which) : Change s (drainSlots which s)
  /-- The freeing of an eligible slot (R9). -/
  | free {i : SlotIx} (h : s.eligible i = true) : Change s (freeSlot i s)
  /-- CREATE (R84). -/
  | create {r : CommandRecord} {i : SlotIx} {rest : List SlotIx} (good : GoodOperands r) (head : s.freeList = i :: rest)
      (space : r.base.toNat + r.length ≤ 2 ^ 32) (outside : s.excluded r.base.toNat r.length = false) :
      Change s (allocate r i rest r.base none 0 s)
  /-- DERIVE (R88). -/
  | derive {r : CommandRecord} {i p : SlotIx} {rest : List SlotIx} (good : GoodOperands r) (head : s.freeList = i :: rest)
      (grants : GrantsDerive (s.grant p) r) :
      Change s (allocate r i rest ((s.grant p).base + r.base) (some p) ((s.grant p).depth + 1) s)
  /-- MODIFY (R95). -/
  | modify {r : CommandRecord} {i : SlotIx} (accepts : AcceptsModify (s.grant i) r) :
      Change s (s.setGrant i (r.applied (s.grant i)))
  /-- A reset frees the whole table (R20, R21). -/
  | release {t : State} (idle : ∀ k : EntryIx, s.tracker[k].state ≠ .issued) (wf : t.grants.wf = true)
      (free : ∀ i, t.grant i = freeRecord (t.grant i).generation)
      (others : t.blocks = { s.blocks with grants := t.grants, freeList := allBelow 1024 }) : Change s t
  /-- A passing request becomes an ISSUED entry (R36). -/
  | issue {a : AgentIx} {q : Request} {k : EntryIx} (empty : s.tracker[k].state = .empty)
      (live : (s.grant (handleSlot q.handle)).state ≠ .free) (low : 1 ≤ q.length.toNat) (high : q.length.toNat ≤ 4096)
      (limit : s.outstanding a < s.agents[a].limit) : Change s (s.setEntry k (issuedEntry a q s))
  /-- Entries end: they become EMPTY, or ABANDONED where they were ISSUED (R47–R49, R52, R56, R57). -/
  | endEntries {t : State} (entry : ∀ k : EntryIx, t.tracker[k] = s.tracker[k] ∨ t.tracker[k] = Entry.emptied ∨
        (s.tracker[k].state = .issued ∧ t.tracker[k] = s.tracker[k].abandon))
      (others : t.blocks = { s.blocks with tracker := t.tracker }) : Change s t
  /-- Agent records are written (R135–R138, R145). -/
  | agents {t : State} (limits : ∀ a : AgentIx, (t.agents[a].limit = s.agents[a].limit ∧ t.agents[a].quota = s.agents[a].quota) ∨
        ((1 ≤ t.agents[a].limit ∧ t.agents[a].limit ≤ 8) ∧ t.agents[a].quota ≤ 1024))
      (others : t.blocks = { s.blocks with agents := t.agents }) : Change s t
  /-- Exclusion ranges are written (R111, R148). -/
  | ranges {t : State} (fits : ∀ x : RangeIx, t.ranges[x] = s.ranges[x] ∨ s.RangeFits t.ranges[x])
      (others : t.blocks = { s.blocks with ranges := t.ranges }) : Change s t

/-- A state is reached from another by changes. -/
def Reaches (s t : State) : Prop := Relation.ReflTransGen Change s t

theorem Reaches.of_change {s t : State} (h : Change s t) : Reaches s t := Relation.ReflTransGen.single h

theorem Reaches.refl {s : State} : Reaches s s := Relation.ReflTransGen.refl

theorem Reaches.trans {s u t : State} (h : Reaches s u) (h' : Reaches u t) : Reaches s t := Relation.ReflTransGen.trans h h'

/-- Writes outside the blocks are no change to them. -/
theorem Reaches.other {s t : State} (h : t.blocks = s.blocks) : Reaches s t := by
  have hg : t.grants = s.grants := congrArg Blocks.grants h
  have hr : t.grant = s.grant := State.grant_congr hg
  exact .of_change (.bookkeeping (fun w => hg ▸ w) (fun i => by rw [hr]) (fun i _ => by rw [hr]) (by rw [h, hg]; rfl))

/-- A change, and then writes outside the blocks. -/
theorem Reaches.then_other {s u t : State} (h : Reaches s u) (ho : t.blocks = u.blocks) : Reaches s t :=
  h.trans (.other ho)

theorem foldl_reaches {α : Type} {f : State → α → State} (h : ∀ s a, Reaches s (f s a)) (l : List α) (s : State) :
    Reaches s (l.foldl f s) := by
  induction l generalizing s with
  | nil => exact .refl
  | cons a rest ih => exact (h s a).trans (ih _)

end Sys2Proof.Machine
end

section
/-! What every change keeps: the free list, the tracker, the agents, the windows and the delegation tree. -/

namespace Sys2Proof.Machine

/-! ## Allocation -/

theorem mem_insertIndex {l : List SlotIx} {i j : SlotIx} : j ∈ insertIndex l i ↔ j ∈ l ∨ j = i := by
  induction l with
  | nil => simp [insertIndex]
  | cons k rest ih =>
    unfold insertIndex
    split
    · simp only [List.mem_cons]; tauto
    · split
      · rename_i h; subst h; simp only [List.mem_cons]; tauto
      · simp only [List.mem_cons, ih]; tauto

theorem insertIndex_pairwise {l : List SlotIx} (i : SlotIx) (h : l.Pairwise (· < ·)) :
    (insertIndex l i).Pairwise (· < ·) := by
  induction l with
  | nil => simp [insertIndex]
  | cons k rest ih =>
    obtain ⟨hk, hr⟩ := List.pairwise_cons.mp h
    unfold insertIndex
    split
    · rename_i hik
      refine List.pairwise_cons.mpr ⟨fun a ha => ?_, h⟩
      rcases List.mem_cons.mp ha with rfl | ha
      · exact hik
      · exact lt_trans hik (hk a ha)
    · split
      · exact h
      · rename_i h1 h2
        refine List.pairwise_cons.mpr ⟨fun a ha => ?_, ih hr⟩
        rcases mem_insertIndex.mp ha with ha | rfl
        · exact hk a ha
        · exact lt_of_le_of_ne (not_lt.mp h1) (Ne.symm h2)

theorem allocate_root_grant (r : CommandRecord) (i : SlotIx) (rest : List SlotIx) (base : BitVec 32) (d : Nat) (s : State)
    (j : SlotIx) : (allocate r i rest base none d s).grant j =
      if j = i then allocatedRecord r (s.grant i).generation base none d else s.grant j :=
  State.grant_setGrant { s with freeList := rest } i j _

/-- A child's allocation is that of a root, and then its link from the parent. -/
theorem allocate_child_eq (r : CommandRecord) (i p : SlotIx) (rest : List SlotIx) (base : BitVec 32) (d : Nat) (s : State) :
    allocate r i rest base (some p) d s =
      linkChild (some p) i ({ s with freeList := rest }.setGrant i
        (allocatedRecord r (s.grant i).generation base (some p) d)) := rfl

theorem allocate_child_grant (r : CommandRecord) {i p : SlotIx} (hp : p ≠ i) (rest : List SlotIx) (base : BitVec 32)
    (d : Nat) (s : State) (j : SlotIx) : (allocate r i rest base (some p) d s).grant j =
      if j = i then allocatedRecord r (s.grant i).generation base (some p) d
      else if j = p then { s.grant p with children := insertIndex (s.grant p).children i }
      else s.grant j := by
  have same (k : SlotIx) : { s with freeList := rest }.grant k = s.grant k := rfl
  rw [allocate_child_eq, linkChild]
  simp only [State.grant_setGrant, same, if_neg hp]
  by_cases h : j = i
  · simp [h, Ne.symm hp]
  · simp [h]

/-- An allocated slot is LIVE, and every other slot keeps its state. -/
theorem allocate_state (r : CommandRecord) (i : SlotIx) (rest : List SlotIx) (base : BitVec 32) (p : Option SlotIx) (d : Nat)
    (s : State) (j : SlotIx) :
    ((allocate r i rest base p d s).grant j).state = if j = i then .live else (s.grant j).state := by
  have same (k : SlotIx) : { s with freeList := rest }.grant k = s.grant k := rfl
  cases p with
  | none => rw [allocate_root_grant]; split <;> rfl
  | some p =>
    rw [allocate_child_eq, linkChild]
    simp only [State.grant_setGrant, same]
    by_cases hp : j = p
    · subst hp; by_cases h : j = i <;> simp [h, allocatedRecord]
    · by_cases h : j = i <;> simp [h, hp, allocatedRecord]
      subst h; simp [hp]

/-- An allocation changes the table and the free list alone. -/
theorem allocate_frame (r : CommandRecord) (i : SlotIx) (rest : List SlotIx) (base : BitVec 32) (p : Option SlotIx)
    (d : Nat) (s : State) : allocate r i rest base p d s =
      { s with grants := (allocate r i rest base p d s).grants, freeList := rest } := by
  cases p <;> rfl

theorem State.setGrant_wf {s : State} (i : SlotIx) (g : Grant) (h : s.grants.wf = true) :
    (s.setGrant i g).grants.wf = true := wf_putGrant i g h

theorem allocate_wf (r : CommandRecord) (i : SlotIx) (rest : List SlotIx) (base : BitVec 32) (p : Option SlotIx)
    (d : Nat) {s : State} (h : s.grants.wf = true) : (allocate r i rest base p d s).grants.wf = true := by
  have h' : { s with freeList := rest }.grants.wf = true := h
  cases p with
  | none => exact State.setGrant_wf _ _ h'
  | some p => exact State.setGrant_wf _ _ (State.setGrant_wf _ _ h')

theorem freeSlot_wf (i : SlotIx) {s : State} (h : s.grants.wf = true) : (freeSlot i s).grants.wf = true := by
  unfold freeSlot unlinkChild
  cases (s.grant i).parent with
  | none => exact wf_putGrant _ _ h
  | some p => exact wf_putGrant _ _ (wf_putGrant _ _ h)

/-- The state of a slot after a slot is freed. -/
theorem freeSlot_state (i : SlotIx) (s : State) (j : SlotIx) :
    ((freeSlot i s).grant j).state = if j = i then .free else (s.grant j).state := by
  show ((unlinkChild (s.grant i).parent i (s.setGrant i (freeRecord ((s.grant i).generation + 1)))).grant j).state = _
  unfold unlinkChild
  cases (s.grant i).parent with
  | none => by_cases h : j = i <;> simp [State.grant_setGrant, h, freeRecord]
  | some p =>
    by_cases h : j = i <;> by_cases hp : j = p <;> by_cases hip : p = i <;>
      simp_all [State.grant_setGrant, freeRecord]

theorem drainSlots_state_free (which : SlotIx → Bool) (s : State) (j : SlotIx) :
    ((drainSlots which s).grant j).state = .free ↔ (s.grant j).state = .free := by
  rw [drainSlots_grant]
  cases h : (s.grant j).state <;> cases which j <;> simp [GrantState.inUse, h]

theorem drainSlots_wf (which : SlotIx → Bool) (s : State) : (drainSlots which s).grants.wf = true := wf_mapGrants _ _

/-! ## The free list (R13) -/

theorem FreeListSound.of_blocks {s t : State} (hs : FreeListSound s) (hg : t.grants = s.grants)
    (hf : t.freeList = s.freeList) : FreeListSound t := by
  have hr : t.grant = s.grant := State.grant_congr hg
  exact ⟨hg ▸ hs.canonical, by rw [hr]; exact hs.values, hf ▸ hs.nodup, by rw [hf, hr]; exact hs.exact⟩

/-- Writes that keep FREE slots as they are and free no other keep the free list exact. -/
theorem FreeListSound.of_same_free {s t : State} (hs : FreeListSound s) (wf : t.grants.wf = true)
    (hf : t.freeList = s.freeList) (state : ∀ i, (t.grant i).state = .free ↔ (s.grant i).state = .free)
    (free : ∀ i, (s.grant i).state = .free → t.grant i = s.grant i) : FreeListSound t where
  canonical := wf
  values i h := by
    have h := (state i).mp h
    rw [free i h]; exact hs.values i h
  nodup := hf ▸ hs.nodup
  exact i := by rw [hf, state]; exact hs.exact i

/-- The head of the free list leaves it and becomes non-FREE. -/
theorem FreeListSound.of_allocate {s t : State} {i : SlotIx} {rest : List SlotIx} (hs : FreeListSound s)
    (head : s.freeList = i :: rest) (wf : t.grants.wf = true) (hf : t.freeList = rest) (new : (t.grant i).state ≠ .free)
    (state : ∀ j, j ≠ i → (t.grant j).state = (s.grant j).state)
    (free : ∀ j, j ≠ i → (s.grant j).state = .free → t.grant j = s.grant j) : FreeListSound t := by
  have nd := hs.nodup
  rw [head, List.nodup_cons] at nd
  refine ⟨wf, fun j h => ?_, hf ▸ nd.2, fun j => ?_⟩
  · have hj : j ≠ i := fun e => new (e ▸ h)
    have h' : (s.grant j).state = .free := by rw [← state j hj]; exact h
    rw [free j hj h']; exact hs.values j h'
  · rw [hf]
    by_cases hj : j = i
    · subst hj; simp [nd.1, new]
    · rw [state j hj, ← hs.exact j, head]; simp [hj]

/-- An eligible slot becomes FREE and joins the tail of the list. -/
theorem FreeListSound.freeSlot {s : State} {i : SlotIx} (hs : FreeListSound s) (h : s.eligible i = true) :
    FreeListSound (freeSlot i s) := by
  obtain ⟨draining, -, -, -⟩ := State.eligible_iff.mp h
  have hf : (Machine.freeSlot i s).freeList = s.freeList ++ [i] := by rw [freeSlot_frame]
  have nonFree : i ∉ s.freeList := fun hm => by simp [(hs.exact i).mp hm] at draining
  have values (j : SlotIx) (hj : j ≠ i) (hfree : (s.grant j).state = .free) : (Machine.freeSlot i s).grant j = s.grant j := by
    show (unlinkChild (s.grant i).parent i (s.setGrant i _)).grant j = _
    unfold unlinkChild
    cases (s.grant i).parent with
    | none => exact State.grant_setGrant_ne _ _ hj
    | some p =>
      by_cases hp : j = p
      · subst hp
        simp only [State.grant_setGrant_same, State.grant_setGrant_ne _ _ hj]
        rw [hs.values j hfree]; rfl
      · simp only [State.grant_setGrant_ne _ _ hp, State.grant_setGrant_ne _ _ hj]
  refine ⟨freeSlot_wf i hs.canonical, fun j hj => ?_, ?_, fun j => ?_⟩
  · by_cases hji : j = i
    · subst hji
      show (unlinkChild (s.grant j).parent j (s.setGrant j _)).grant j = freeRecord
        ((unlinkChild (s.grant j).parent j (s.setGrant j _)).grant j).generation
      unfold unlinkChild
      cases (s.grant j).parent with
      | none => simp [freeRecord]
      | some p => by_cases hp : j = p <;> simp [State.grant_setGrant, hp, freeRecord]
    · rw [freeSlot_state, if_neg hji] at hj
      rw [values j hji hj]; exact hs.values j hj
  · rw [hf]; simpa [List.nodup_append, hs.nodup] using fun a ha (e : a = i) => nonFree (e ▸ ha)
  · rw [hf, freeSlot_state]
    by_cases hji : j = i
    · simp [hji]
    · simp [hji, hs.exact j]

/-- A FREE slot is never the parent that a DERIVE takes. -/
theorem FreeListSound.head_ne {s : State} {i p : SlotIx} {rest : List SlotIx} (hs : FreeListSound s)
    (head : s.freeList = i :: rest) (live : (s.grant p).state = .live) : p ≠ i := by
  rintro rfl
  have : (s.grant p).state = .free := (hs.exact p).mp (by simp [head])
  simp [this] at live

theorem AcceptsModify.state_ne_free {g : Grant} {r : CommandRecord} (h : AcceptsModify g r) : g.state ≠ .free := by
  intro e; have := h.inUse; simp [e, GrantState.inUse] at this

theorem AcceptsModify.applied_inUse {g : Grant} {r : CommandRecord} (h : AcceptsModify g r) :
    (r.applied g).state.inUse = true := by
  have := h.inUse
  unfold CommandRecord.applied
  dsimp only
  split
  · rfl
  · split
    · rfl
    · exact this

theorem AcceptsModify.applied_ne_free {g : Grant} {r : CommandRecord} (h : AcceptsModify g r) :
    (r.applied g).state ≠ .free := by
  intro e; have := h.applied_inUse; simp [e, GrantState.inUse] at this

theorem FreeListSound.change {s t : State} (h : Change s t) (hs : FreeListSound s) : FreeListSound t := by
  cases h with
  | bookkeeping wf shape free others =>
    have state (i) : (t.grant i).state = (s.grant i).state := (Grant.shape_eq_iff.mp (shape i)).1
    exact hs.of_same_free (wf hs.canonical) (congrArg Blocks.freeList others) (fun i => by rw [state])
      fun i h => free i (hs.values i h)
  | drain line =>
    exact hs.of_same_free (drainSlots_wf _ _) rfl (drainSlots_state_free _ _) fun i h => by
      rw [drainSlots_grant]; simp [h, GrantState.inUse]
  | free h => exact hs.freeSlot h
  | @create r i rest good head space outside =>
    have grant := allocate_root_grant r i rest r.base 0 s
    refine hs.of_allocate head (allocate_wf _ _ _ _ _ _ hs.canonical) (by rw [allocate_frame]) ?_ ?_ ?_
    · simp [grant, allocatedRecord]
    · intro j hj; simp [grant, hj]
    · intro j hj _; simp [grant, hj]
  | @derive r i p rest good head grants =>
    have hp := hs.head_ne head grants.live
    have grant := allocate_child_grant r hp rest ((s.grant p).base + r.base) ((s.grant p).depth + 1) s
    refine hs.of_allocate head (allocate_wf _ _ _ _ _ _ hs.canonical) (by rw [allocate_frame]) ?_ ?_ ?_
    · simp [grant, allocatedRecord]
    · intro j hj; rw [grant, if_neg hj]; split
      · rename_i e; rw [e]
      · rfl
    · intro j hj hfree
      have : j ≠ p := by rintro rfl; simp [grants.live] at hfree
      simp [grant, hj, this]
  | @modify r i accepts =>
    refine hs.of_same_free (wf_putGrant _ _ hs.canonical) rfl (fun j => ?_) fun j hj => ?_
    · by_cases h : j = i
      · subst h; simp [accepts.applied_ne_free, accepts.state_ne_free]
      · rw [State.grant_setGrant_ne _ _ h]
    · refine State.grant_setGrant_ne _ _ ?_
      rintro rfl; exact accepts.state_ne_free hj
  | release idle wf free others =>
    have hf : t.freeList = allBelow 1024 := congrArg Blocks.freeList others
    have state (i) : (t.grant i).state = .free := by rw [free i]; rfl
    exact ⟨wf, fun i _ => free i, hf ▸ allBelow_nodup _, fun i => by simp [hf, state i]⟩
  | issue => exact hs.of_blocks rfl rfl
  | endEntries entry others => exact hs.of_blocks (congrArg Blocks.grants others) (congrArg Blocks.freeList others)
  | agents limits others => exact hs.of_blocks (congrArg Blocks.grants others) (congrArg Blocks.freeList others)
  | ranges fits others => exact hs.of_blocks (congrArg Blocks.grants others) (congrArg Blocks.freeList others)

/-! ## The tracker (R4, R42) -/

/-- Slots that stay non-FREE keep their entries. -/
theorem TrackerSound.of_nonFree {s t : State} (hs : TrackerSound s) (ht : t.tracker = s.tracker)
    (h : ∀ i, (s.grant i).state ≠ .free → (t.grant i).state ≠ .free) : TrackerSound t := by
  refine ⟨?_, ?_, ?_, fun k hk => ?_⟩
  · rw [ht]; exact hs.empty
  · rw [ht]; exact hs.abandoned
  · rw [ht]; exact hs.length
  · rw [ht] at hk ⊢; exact h _ (hs.issued k hk)

/-- What a tracker entry holds, of which the invariant speaks (R4, R42). -/
structure EntrySound (s : State) (e : Entry) : Prop where
  empty     : e.state = .empty → e = Entry.emptied
  abandoned : e.state = .abandoned → e.agent = 0 ∧ e.tag = 0 ∧ e.grant = 0 ∧ e.address = 0
  length    : e.state ≠ .empty → 1 ≤ e.length ∧ e.length ≤ 4096
  issued    : e.state = .issued → (s.grant e.grant).state ≠ .free

theorem trackerSound_iff {s : State} : TrackerSound s ↔ ∀ k : EntryIx, EntrySound s s.tracker[k] :=
  ⟨fun h k => ⟨h.empty k, h.abandoned k, h.length k, h.issued k⟩,
    fun h => ⟨fun k => (h k).empty, fun k => (h k).abandoned, fun k => (h k).length, fun k => (h k).issued⟩⟩

theorem EntrySound.emptied (s : State) : EntrySound s Entry.emptied :=
  ⟨fun _ => rfl, fun h => (nomatch h), fun h => absurd rfl h, fun h => (nomatch h)⟩

theorem EntrySound.abandon {s : State} {e : Entry} (h : EntrySound s e) (hi : e.state = .issued) : EntrySound s e.abandon :=
  ⟨fun h => (nomatch h), fun _ => ⟨rfl, rfl, rfl, rfl⟩, fun _ => h.length (by simp [hi]), fun h => (nomatch h)⟩

theorem State.setEntry_tracker_get (s : State) (k j : EntryIx) (e : Entry) :
    (s.setEntry k e).tracker[j] = if j = k then e else s.tracker[j] := by
  by_cases h : j = k
  · subst h; simp
  · have : k.val ≠ j.val := fun c => h (Fin.ext c.symm)
    simp [h, this]

theorem TrackerSound.change {s t : State} (h : Change s t) (hs : TrackerSound s) : TrackerSound t := by
  cases h with
  | bookkeeping wf shape free others =>
    exact hs.of_nonFree (congrArg Blocks.tracker others) fun i h => by rwa [(Grant.shape_eq_iff.mp (shape i)).1]
  | drain line => exact hs.of_nonFree rfl fun i h => by rwa [ne_eq, drainSlots_state_free]
  | @free i h =>
    have he := State.eligible_iff.mp h
    have ht : (freeSlot i s).tracker = s.tracker := by rw [freeSlot_frame]
    refine ⟨?_, ?_, ?_, fun k hk => ?_⟩
    · rw [ht]; exact hs.empty
    · rw [ht]; exact hs.abandoned
    · rw [ht]; exact hs.length
    · rw [ht] at hk ⊢
      rw [freeSlot_state, if_neg (State.inFlight_eq_zero.mp he.2.1 k hk)]
      exact hs.issued k hk
  | @create r i rest good head space outside =>
    exact hs.of_nonFree (by rw [allocate_frame]) fun j hj => by rw [allocate_state]; split <;> simp_all
  | @derive r i p rest good head grants =>
    exact hs.of_nonFree (by rw [allocate_frame]) fun j hj => by rw [allocate_state]; split <;> simp_all
  | @modify r i accepts =>
    refine hs.of_nonFree rfl fun j hj => ?_
    rw [State.grant_setGrant]; split
    · exact accepts.applied_ne_free
    · exact hj
  | release idle wf free others =>
    have ht : t.tracker = s.tracker := congrArg Blocks.tracker others
    refine ⟨?_, ?_, ?_, fun k hk => ?_⟩
    · rw [ht]; exact hs.empty
    · rw [ht]; exact hs.abandoned
    · rw [ht]; exact hs.length
    · rw [ht] at hk; exact absurd hk (idle k)
  | @issue a q k empty live low high limit =>
    rw [trackerSound_iff] at hs ⊢
    intro j
    rw [State.setEntry_tracker_get]
    split
    · exact ⟨fun h => (nomatch h), fun h => (nomatch h), fun _ => ⟨low, high⟩, fun _ => live⟩
    · exact ⟨(hs j).empty, (hs j).abandoned, (hs j).length, (hs j).issued⟩
  | endEntries entry others =>
    have hg : t.grant = s.grant := State.grant_congr (congrArg Blocks.grants others)
    have lift {e : Entry} (h : EntrySound s e) : EntrySound t e :=
      ⟨h.empty, h.abandoned, h.length, by rw [hg]; exact h.issued⟩
    rw [trackerSound_iff] at hs ⊢
    intro k
    rcases entry k with e | e | ⟨issued, e⟩ <;> rw [e]
    · exact lift (hs k)
    · exact .emptied t
    · exact lift ((hs k).abandon issued)
  | agents limits others =>
    exact hs.of_nonFree (congrArg Blocks.tracker others) fun i h => by
      rwa [State.grant_congr (congrArg Blocks.grants others : t.grants = s.grants)]
  | ranges fits others =>
    exact hs.of_nonFree (congrArg Blocks.tracker others) fun i h => by
      rwa [State.grant_congr (congrArg Blocks.grants others : t.grants = s.grants)]

end Sys2Proof.Machine
end

section
/-! What every change keeps, continued: the agents, the windows and the delegation tree. -/

namespace Sys2Proof.Machine

/-! ## Counting over tables of fixed length -/

theorem vector_toList_eq_map {n : Nat} {α : Type} (v : Vector α n) : v.toList = (List.finRange n).map fun i => v[i] := by
  apply List.ext_getElem <;> simp

theorem vector_countP_mono {n : Nat} {α : Type} {v w : Vector α n} {p : α → Bool}
    (h : ∀ i : Fin n, p w[i] = true → p v[i] = true) : w.toList.countP p ≤ v.toList.countP p := by
  rw [vector_toList_eq_map, vector_toList_eq_map, List.countP_map, List.countP_map]
  exact List.countP_mono_left fun i _ => h i

theorem vector_countP_set_of_not {n : Nat} {α : Type} (v : Vector α n) (k : Fin n) (x : α) {p : α → Bool}
    (h : p v[k] = false) : (v.set k x).toList.countP p = v.toList.countP p + if p x then 1 else 0 := by
  have hk : v.toList[k.val]'(by simp) = v[k] := by simp
  rw [Vector.toList_set, List.countP_set (by simp), hk, h]
  simp

/-! ## The agents (R54, R131) -/

theorem State.outstanding_congr {s t : State} (h : t.tracker = s.tracker) (a : AgentIx) : t.outstanding a = s.outstanding a := by
  rw [State.outstanding, h]; rfl

theorem AgentsSound.of_tracker {s t : State} (hs : AgentsSound s) (ha : t.agents = s.agents)
    (ho : ∀ a, t.outstanding a ≤ s.outstanding a) : AgentsSound t :=
  ⟨by rw [ha]; exact hs.limit, by rw [ha]; exact hs.quota, fun a => (ho a).trans (hs.outstanding a)⟩

theorem AgentsSound.of_blocks {s t : State} (hs : AgentsSound s) (ha : t.agents = s.agents) (ht : t.tracker = s.tracker) :
    AgentsSound t := hs.of_tracker ha fun a => (State.outstanding_congr ht a).le

theorem AgentsSound.change {s t : State} (h : Change s t) (hs : AgentsSound s) : AgentsSound t := by
  cases h with
  | bookkeeping wf shape free others => exact hs.of_blocks (congrArg Blocks.agents others) (congrArg Blocks.tracker others)
  | drain line => exact hs.of_blocks rfl rfl
  | free h => exact hs.of_blocks (by rw [freeSlot_frame]) (by rw [freeSlot_frame])
  | create => exact hs.of_blocks (by rw [allocate_frame]) (by rw [allocate_frame])
  | derive => exact hs.of_blocks (by rw [allocate_frame]) (by rw [allocate_frame])
  | modify => exact hs.of_blocks rfl rfl
  | release idle wf free others => exact hs.of_blocks (congrArg Blocks.agents others) (congrArg Blocks.tracker others)
  | @issue a q k empty live low high limit =>
    refine ⟨hs.limit, hs.quota, fun b => ?_⟩
    have count : (s.setEntry k (issuedEntry a q s)).outstanding b = s.outstanding b + if a = b then 1 else 0 := by
      have := vector_countP_set_of_not s.tracker k (issuedEntry a q s)
        (p := fun e => decide (e.state = .issued) && e.agent == b) (by simp only [empty]; rfl)
      simpa [State.outstanding, issuedEntry] using this
    rw [count]
    have hl := (hs.limit a).2
    have ho := hs.outstanding b
    split
    · rename_i e; subst e; omega
    · omega
  | endEntries entry others =>
    refine hs.of_tracker (congrArg Blocks.agents others) fun a => vector_countP_mono fun k hk => ?_
    rcases entry k with e | e | ⟨-, e⟩ <;> rw [e] at hk
    · exact hk
    · simp [Entry.emptied] at hk
    · simp [Entry.abandon] at hk
  | agents limits others =>
    refine ⟨fun a => ?_, fun a => ?_, fun a => ?_⟩
    · rcases limits a with ⟨e, -⟩ | ⟨h, -⟩
      · rw [e]; exact hs.limit a
      · exact h
    · rcases limits a with ⟨-, e⟩ | ⟨-, h⟩
      · rw [e]; exact hs.quota a
      · exact h
    · rw [State.outstanding_congr (congrArg Blocks.tracker others : t.tracker = s.tracker)]; exact hs.outstanding a
  | ranges fits others => exact hs.of_blocks (congrArg Blocks.agents others) (congrArg Blocks.tracker others)

/-! ## The windows (R3, R146, R147) -/

/-- A window lies in the physical space, outside the enabled ranges, with a length in range and some right. -/
structure WindowIn (ranges : Vector ExclusionRange 4) (g : Grant) : Prop where
  length  : 1 ≤ g.length ∧ g.length ≤ 2 ^ 24
  space   : g.base.toNat + g.length ≤ 2 ^ 32
  rights  : g.rights ≠ Rights.none
  outside : ∀ x : RangeIx, ranges[x].enabled = true →
    ¬ (ranges[x].base.toNat < g.base.toNat + g.length ∧ g.base.toNat < ranges[x].base.toNat + ranges[x].length)

theorem WindowsSound.windowIn {s : State} (h : WindowsSound s) {i : SlotIx} (hi : (s.grant i).state ≠ .free) :
    WindowIn s.ranges (s.grant i) := ⟨h.length i hi, h.space i hi, h.rights i hi, h.excluded i hi⟩

/-- A window inside another one is as sound. -/
theorem WindowIn.within {ranges : Vector ExclusionRange 4} {g h : Grant} (hg : WindowIn ranges g) (length : 1 ≤ h.length)
    (low : g.base.toNat ≤ h.base.toNat) (high : h.base.toNat + h.length ≤ g.base.toNat + g.length)
    (rights : h.rights ≠ Rights.none) : WindowIn ranges h := by
  have hl := hg.length
  have hs := hg.space
  refine ⟨⟨length, by omega⟩, by omega, rights, fun x hx ⟨h1, h2⟩ => hg.outside x hx ⟨by omega, by omega⟩⟩

theorem WindowsSound.of_grants {s t : State} (hs : WindowsSound s) (hr : t.ranges = s.ranges)
    (h : ∀ i, (t.grant i).state ≠ .free → WindowIn s.ranges (t.grant i)) : WindowsSound t where
  length i hi := (h i hi).length
  space i hi := (h i hi).space
  rights i hi := (h i hi).rights
  enabled := by rw [hr]; exact hs.enabled
  disabled := by rw [hr]; exact hs.disabled
  excluded i hi := by rw [hr]; exact (h i hi).outside

theorem WindowsSound.of_blocks {s t : State} (hs : WindowsSound s) (hr : t.ranges = s.ranges) (hg : t.grants = s.grants) :
    WindowsSound t :=
  hs.of_grants hr fun i => by rw [State.grant_congr hg]; exact hs.windowIn

theorem CommandRecord.base_add {p : Grant} {r : CommandRecord} (good : GoodOperands r) (inside : r.base.toNat + r.length ≤ p.length)
    (space : p.base.toNat + p.length ≤ 2 ^ 32) : (p.base + r.base).toNat = p.base.toNat + r.base.toNat := by
  have := good.low
  rw [BitVec.toNat_add]
  exact Nat.mod_eq_of_lt (by omega)

theorem freeSlot_children (i : SlotIx) (s : State) {x : SlotIx} (hx : x ≠ i) :
    ∃ c, (freeSlot i s).grant x = { s.grant x with children := c } := by
  show ∃ c, (unlinkChild (s.grant i).parent i (s.setGrant i _)).grant x = _
  unfold unlinkChild
  cases (s.grant i).parent with
  | none => exact ⟨(s.grant x).children, State.grant_setGrant_ne _ _ hx⟩
  | some p =>
    by_cases hp : x = p
    · subst hp
      simp only [State.grant_setGrant_same, State.grant_setGrant_ne _ _ hx]
      exact ⟨_, rfl⟩
    · simp only [State.grant_setGrant_ne _ _ hp, State.grant_setGrant_ne _ _ hx]
      exact ⟨(s.grant x).children, rfl⟩

theorem State.not_excluded {s : State} {base length : Nat} (h : s.excluded base length = false) (x : RangeIx)
    (hx : s.ranges[x].enabled = true) :
    ¬ (s.ranges[x].base.toNat < base + length ∧ base < s.ranges[x].base.toNat + s.ranges[x].length) := by
  rintro ⟨h1, h2⟩
  refine Bool.false_ne_true (h.symm.trans ?_)
  rw [State.excluded, vector_any]
  exact ⟨x, by simp only [hx, windowsOverlap, h1, h2, decide_true, Bool.and_self]⟩

/-- The grant a MODIFY leaves covers no more than before, with no right that it had not. -/
theorem AcceptsModify.applied_window {ranges : Vector ExclusionRange 4} {g : Grant} {r : CommandRecord} (h : AcceptsModify g r)
    (hg : WindowIn ranges g) : WindowIn ranges (r.applied g) := by
  have hl := hg.length
  refine hg.within ?_ le_rfl ?_ ?_
  · show 1 ≤ if r.setLength then r.length else g.length
    split
    · rename_i e; exact (h.length e).1
    · exact hl.1
  · show g.base.toNat + (if r.setLength then r.length else g.length) ≤ _
    split
    · rename_i e; have := (h.length e).2; omega
    · exact le_rfl
  · show (if r.setRights then r.rights else g.rights) ≠ _
    split
    · rename_i e; exact (h.rights e).1
    · exact hg.rights

theorem WindowsSound.change {s t : State} (h : Change s t) (hs : WindowsSound s) (hf : FreeListSound s) : WindowsSound t := by
  cases h with
  | bookkeeping wf shape free others =>
    refine hs.of_grants (congrArg Blocks.ranges others) fun i hi => ?_
    obtain ⟨state, -, -, base, length, rights, -⟩ := Grant.shape_eq_iff.mp (shape i)
    obtain ⟨h1, h2, h3, h4⟩ := hs.windowIn (state ▸ hi)
    exact ⟨length ▸ h1, by rw [base, length]; exact h2, rights ▸ h3, by rw [base, length]; exact h4⟩
  | @drain which line =>
    refine hs.of_grants rfl fun i hi => ?_
    obtain ⟨h1, h2, h3, h4⟩ := hs.windowIn (mt (drainSlots_state_free which s i).mpr hi)
    rw [drainSlots_grant]
    split <;> exact ⟨h1, h2, h3, h4⟩
  | @free i h =>
    refine hs.of_grants (by rw [freeSlot_frame]) fun j hj => ?_
    rw [freeSlot_state] at hj
    have hji : j ≠ i := fun e => hj (by simp [e])
    obtain ⟨c, hc⟩ := freeSlot_children i s hji
    rw [if_neg hji] at hj
    obtain ⟨h1, h2, h3, h4⟩ := hs.windowIn hj
    rw [hc]; exact ⟨h1, h2, h3, h4⟩
  | @create r i rest good head space outside =>
    refine hs.of_grants (by rw [allocate_frame]) fun j hj => ?_
    rw [allocate_root_grant] at hj ⊢
    by_cases e : j = i
    · rw [if_pos e]
      exact ⟨⟨good.low, good.high⟩, space, good.rights, State.not_excluded outside⟩
    · rw [if_neg e] at hj ⊢; exact hs.windowIn hj
  | @derive r i p rest good head grants =>
    have hp := hf.head_ne head grants.live
    have parent := hs.windowIn (i := p) (by rw [grants.live]; simp)
    refine hs.of_grants (by rw [allocate_frame]) fun j hj => ?_
    rw [allocate_child_grant r hp] at hj ⊢
    by_cases e : j = i
    · rw [if_pos e]
      have add := CommandRecord.base_add good grants.length parent.space
      have inside := grants.length
      refine parent.within good.low ?_ ?_ good.rights
      · show _ ≤ ((s.grant p).base + r.base).toNat; omega
      · show ((s.grant p).base + r.base).toNat + r.length ≤ _; omega
    · rw [if_neg e] at hj ⊢
      by_cases ep : j = p
      · rw [if_pos ep]; exact ⟨parent.length, parent.space, parent.rights, parent.outside⟩
      · rw [if_neg ep] at hj ⊢; exact hs.windowIn hj
  | @modify r i accepts =>
    refine hs.of_grants rfl fun j hj => ?_
    rw [State.grant_setGrant] at hj ⊢
    by_cases e : j = i
    · rw [if_pos e]; exact accepts.applied_window (hs.windowIn accepts.state_ne_free)
    · rw [if_neg e] at hj ⊢; exact hs.windowIn hj
  | release idle wf free others =>
    refine hs.of_grants (congrArg Blocks.ranges others) fun i hi => ?_
    exact absurd (by rw [free i]; rfl) hi
  | issue => exact hs.of_blocks rfl rfl
  | endEntries entry others => exact hs.of_blocks (congrArg Blocks.ranges others) (congrArg Blocks.grants others)
  | agents limits others => exact hs.of_blocks (congrArg Blocks.ranges others) (congrArg Blocks.grants others)
  | ranges fits others =>
    have hg : t.grant = s.grant := State.grant_congr (congrArg Blocks.grants others)
    refine ⟨by rw [hg]; exact hs.length, by rw [hg]; exact hs.space, by rw [hg]; exact hs.rights, fun x hx => ?_,
      fun x hx => ?_, fun i hi x hx => ?_⟩
    · rcases fits x with e | ⟨e, -⟩ | ⟨-, h1, h2, h3, -⟩
      · rw [e] at hx ⊢; exact hs.enabled x hx
      · rw [e] at hx; cases hx
      · exact ⟨h1, h2, h3⟩
    · rcases fits x with e | ⟨-, h1, h2⟩ | ⟨e, -⟩
      · rw [e] at hx ⊢; exact hs.disabled x hx
      · exact ⟨h1, h2⟩
      · rw [e] at hx; cases hx
    · rw [hg] at hi ⊢
      rcases fits x with e | ⟨e, -⟩ | ⟨-, -, -, -, h⟩
      · rw [e] at hx ⊢; exact hs.excluded i hi x hx
      · rw [e] at hx; cases hx
      · exact h i hi

end Sys2Proof.Machine
end

section
/-! What every change keeps, continued: the delegation tree (R5, R15). -/

namespace Sys2Proof.Machine

/-! ## The line of ancestors in a sound tree -/

theorem TreeSound.parent_none_of_depth {s : State} (h : TreeSound s) {i : SlotIx} (hd : (s.grant i).depth = 0) :
    (s.grant i).parent = none := by
  cases hp : (s.grant i).parent with
  | none => rfl
  | some p => have := (h.parent i p hp).depth; omega

/-- No more ancestors are found than a slot's depth says. -/
theorem TreeSound.ancestorsUpTo_succ {s : State} (h : TreeSound s) (n : Nat) {i : SlotIx} (hd : (s.grant i).depth ≤ n) :
    ancestorsUpTo (n + 1) s.grants i = ancestorsUpTo n s.grants i := by
  induction n generalizing i with
  | zero =>
    have hp : (grantAt s.grants i).parent = none := h.parent_none_of_depth (Nat.le_zero.mp hd)
    simp only [ancestorsUpTo, hp]
  | succ n ih =>
    rw [ancestorsUpTo, ancestorsUpTo]
    cases hp : (grantAt s.grants i).parent with
    | none => rfl
    | some p =>
      have := (h.parent i p hp).depth
      exact congrArg (p :: ·) (ih (by omega))

/-- The ancestors of a child are its parent and the ancestors of that. -/
theorem TreeSound.ancestors_child {s : State} (h : TreeSound s) {j p : SlotIx} (hp : (s.grant j).parent = some p) :
    s.ancestors j = p :: s.ancestors p := by
  have hd := (h.parent j p hp).depth
  have hj := h.depth j
  have hp' : (grantAt s.grants j).parent = some p := hp
  have step : s.ancestors j = p :: ancestorsUpTo 2 s.grants p := by
    simp only [State.ancestors, ancestorsUpTo, hp']
  rw [step, ← h.ancestorsUpTo_succ 2 (i := p) (by omega)]; rfl

/-- A choice by the line of ancestors takes the children of each slot it takes. -/
theorem TreeSound.chosen_child {s : State} (h : TreeSound s) {which : SlotIx → Bool} (line : s.ChosenByLine which) {j p : SlotIx}
    (hp : (s.grant j).parent = some p) (hj : (s.grant j).state.inUse = true) (hw : which p = true) : which j = true := by
  obtain ⟨P, hP⟩ := line
  obtain ⟨x, hx, hPx⟩ := (hP p ((h.parent j p hp).inUse hj)).mp hw
  refine (hP j hj).mpr ⟨x, ?_, hPx⟩
  rw [h.ancestors_child hp]
  exact List.mem_cons_of_mem _ hx

/-! ## A slot and its parent -/

/-- The children of the two do not matter. -/
theorem UnderParent.of_children {g p g' p' : Grant} (h : UnderParent g p) (hg : ∃ c, g' = { g with children := c })
    (hp : ∃ c, p' = { p with children := c }) : UnderParent g' p' := by
  obtain ⟨c, rfl⟩ := hg
  obtain ⟨d, rfl⟩ := hp
  exact ⟨h.nonFree, h.depth, h.low, h.high, h.rights, h.inUse⟩

theorem UnderParent.of_shape {g p g' p' : Grant} (h : UnderParent g p) (hg : g'.shape = g.shape) (hp : p'.shape = p.shape) :
    UnderParent g' p' := by
  obtain ⟨s1, -, -, b1, l1, r1, -, -, -, d1, -⟩ := Grant.shape_eq_iff.mp hg
  obtain ⟨s2, -, -, b2, l2, r2, -, -, -, d2, -⟩ := Grant.shape_eq_iff.mp hp
  exact ⟨s2 ▸ h.nonFree, by rw [d1, d2]; exact h.depth, by rw [b1, b2]; exact h.low, by rw [b1, b2, l1, l2]; exact h.high,
    by rw [r1, r2]; exact h.rights, by rw [s1, s2]; exact h.inUse⟩

theorem Rights.subset_trans {a b c : Rights} (h : a.subset b = true) (h' : b.subset c = true) : a.subset c = true := by
  simp only [Rights.subset, Bool.and_eq_true, Bool.or_eq_true, Bool.not_eq_true'] at *
  grind

/-- A MODIFY of the lower of two keeps it under its parent. -/
theorem UnderParent.modify_child {g p : Grant} (h : UnderParent g p) {r : CommandRecord} (ha : AcceptsModify g r) :
    UnderParent (r.applied g) p where
  nonFree := h.nonFree
  depth := h.depth
  low := h.low
  high := by
    have := h.high
    show g.base.toNat + (if r.setLength then r.length else g.length) ≤ _
    split
    · rename_i e; have := (ha.length e).2; omega
    · exact this
  rights := by
    show (if r.setRights then r.rights else g.rights).subset _ = true
    split
    · rename_i e; exact Rights.subset_trans (ha.rights e).2 h.rights
    · exact h.rights
  inUse _ := h.inUse ha.inUse

/-- A MODIFY of the upper of two, which has a child, changes neither its window nor its rights. -/
theorem UnderParent.modify_parent {g p : Grant} (h : UnderParent g p) {r : CommandRecord} (ha : AcceptsModify p r)
    (hc : p.children ≠ []) : UnderParent g (r.applied p) := by
  have length : (r.applied p).length = p.length := by
    show (if r.setLength then r.length else p.length) = _
    split
    · rename_i e; exact (ha.leaf hc).2 e
    · rfl
  have rights : (r.applied p).rights = p.rights := by
    show (if r.setRights then r.rights else p.rights) = _
    split
    · rename_i e; exact (ha.leaf hc).1 e
    · rfl
  exact ⟨ha.applied_ne_free, h.depth, h.low, by rw [length]; exact h.high, by rw [rights]; exact h.rights,
    fun _ => ha.applied_inUse⟩

/-! ## The tree -/

theorem TreeSound.of_grants {s t : State} (hs : TreeSound s) (hg : t.grants = s.grants) : TreeSound t := by
  have h : t.grant = s.grant := State.grant_congr hg
  exact ⟨by rw [h]; exact hs.depth, by rw [h]; exact hs.root, by rw [h]; exact hs.parent, by rw [h]; exact hs.children,
    by rw [h]; exact hs.sorted⟩

/-- A leaf is no slot's parent. -/
theorem TreeSound.not_parent {s : State} (h : TreeSound s) {i : SlotIx} (leaf : (s.grant i).children = []) (j : SlotIx) :
    (s.grant j).parent ≠ some i := fun hp => by
  have := (h.children i j).mpr hp
  simp [leaf] at this

theorem freeRecord_children (g : BitVec 6) : (freeRecord g).children = [] := rfl

theorem TreeSound.of_shape {s t : State} (hs : TreeSound s) (h : ∀ i, (t.grant i).shape = (s.grant i).shape) :
    TreeSound t := by
  have parent (i) : (t.grant i).parent = (s.grant i).parent := (Grant.shape_eq_iff.mp (h i)).2.2.2.2.2.2.2.2.1
  have depth (i) : (t.grant i).depth = (s.grant i).depth := (Grant.shape_eq_iff.mp (h i)).2.2.2.2.2.2.2.2.2.1
  have children (i) : (t.grant i).children = (s.grant i).children := (Grant.shape_eq_iff.mp (h i)).2.2.2.2.2.2.2.2.2.2
  refine ⟨fun i => by rw [depth]; exact hs.depth i, fun i hi => ?_, fun i p hp => ?_, fun i j => ?_, fun i => ?_⟩
  · rw [depth]; rw [parent] at hi; exact hs.root i hi
  · rw [parent] at hp; exact (hs.parent i p hp).of_shape (h i) (h p)
  · rw [children, parent]; exact hs.children i j
  · rw [children]; exact hs.sorted i

theorem TreeSound.drain {s : State} (hs : TreeSound s) {which : SlotIx → Bool} (line : s.ChosenByLine which) :
    TreeSound (drainSlots which s) := by
  have moved (i) : (drainSlots which s).grant i = { s.grant i with
      state := if which i && (s.grant i).state.inUse then .draining else (s.grant i).state } := by
    rw [drainSlots_grant]; split <;> rfl
  refine ⟨fun i => by rw [moved]; exact hs.depth i, fun i hi => ?_, fun i p hp => ?_, fun i j => ?_, fun i => ?_⟩
  · rw [moved] at hi ⊢; exact hs.root i hi
  · have hp' : (s.grant i).parent = some p := by rw [moved] at hp; exact hp
    have up := hs.parent i p hp'
    rw [moved, moved]
    refine ⟨?_, up.depth, up.low, up.high, up.rights, fun hu => ?_⟩
    · show (if _ then GrantState.draining else _) ≠ _
      split
      · simp
      · exact up.nonFree
    · have hi : which i = false ∧ (s.grant i).state.inUse = true := by
        revert hu
        cases which i <;> cases h : (s.grant i).state.inUse <;> simp [h]
      have hw : which p = false := by
        by_contra c
        have := hs.chosen_child line hp' hi.2 (by simpa using c)
        simp [hi.1] at this
      simpa [hw] using up.inUse hi.2
  · rw [moved, moved]; exact hs.children i j
  · rw [moved]; exact hs.sorted i

theorem TreeSound.freeSlot {s : State} (hs : TreeSound s) {i : SlotIx} (leaf : (s.grant i).children = []) :
    TreeSound (freeSlot i s) := by
  have none_under := hs.not_parent leaf
  have grant := freeSlot_grant i s (none_under i)
  have same {x} (hx : x ≠ i) := freeSlot_children i s hx
  have freed : (Machine.freeSlot i s).grant i = freeRecord ((s.grant i).generation + 1) := by rw [grant, if_pos rfl]
  have parent (x) : ((Machine.freeSlot i s).grant x).parent = if x = i then none else (s.grant x).parent := by
    by_cases hx : x = i
    · subst hx; rw [freed, if_pos rfl]; rfl
    · obtain ⟨c, hc⟩ := same hx; rw [hc, if_neg hx]
  refine ⟨fun x => ?_, fun x hx => ?_, fun x p hp => ?_, fun x j => ?_, fun x => ?_⟩
  · by_cases e : x = i
    · subst e; rw [freed]; exact Nat.zero_le _
    · obtain ⟨c, hc⟩ := same e; rw [hc]; exact hs.depth x
  · by_cases e : x = i
    · subst e; rw [freed]; rfl
    · rw [parent, if_neg e] at hx
      obtain ⟨c, hc⟩ := same e; rw [hc]; exact hs.root x hx
  · rw [parent] at hp
    by_cases e : x = i
    · simp [e] at hp
    · rw [if_neg e] at hp
      have hpi : p ≠ i := fun c => none_under x (c ▸ hp)
      exact (hs.parent x p hp).of_children (same e) (same hpi)
  · rw [parent, grant]
    by_cases e : x = i
    · subst e
      by_cases hj : j = x <;> simp [freeRecord_children, hj, none_under j]
    · rw [if_neg e]
      have kept := hs.children x j
      by_cases hp : (s.grant i).parent = some x
      · rw [if_pos hp]
        by_cases hj : j = i <;> simp [hj, kept]
      · rw [if_neg hp]
        by_cases hj : j = i
        · subst hj; simp [kept, hp]
        · simp [hj, kept]
  · rw [grant]
    by_cases e : x = i
    · simp [e, freeRecord_children]
    · rw [if_neg e]
      split
      · exact (hs.sorted x).filter _
      · exact hs.sorted x

/-- A new leaf under no parent. -/
theorem TreeSound.create {s t : State} (hs : TreeSound s) {i : SlotIx} {g : Grant} (old : s.grant i = freeRecord (s.grant i).generation)
    (grant : ∀ j, t.grant j = if j = i then g else s.grant j) (parent : g.parent = none) (depth : g.depth = 0)
    (children : g.children = []) : TreeSound t := by
  have none_under := hs.not_parent (i := i) (by rw [old]; rfl)
  have root : (s.grant i).parent = none := by rw [old]; rfl
  have parents (j) : (t.grant j).parent = (s.grant j).parent := by
    rw [grant]; split
    · rename_i e; rw [parent, e, root]
    · rfl
  have childs (j) : (t.grant j).children = (s.grant j).children := by
    rw [grant]; split
    · rename_i e; rw [children, e, old]; rfl
    · rfl
  refine ⟨fun j => ?_, fun j hj => ?_, fun j p hp => ?_, fun j k => ?_, fun j => ?_⟩
  · rw [grant]; split
    · omega
    · exact hs.depth j
  · rw [parents] at hj
    rw [grant]; split
    · exact depth
    · exact hs.root j hj
  · rw [parents] at hp
    have hj : j ≠ i := fun e => by simp [e, root] at hp
    have hpi : p ≠ i := fun e => none_under j (e ▸ hp)
    rw [grant, grant, if_neg hj, if_neg hpi]; exact hs.parent j p hp
  · rw [childs, parents]; exact hs.children j k
  · rw [childs]; exact hs.sorted j

/-- A new leaf under a parent, which gains it as a child. -/
theorem TreeSound.derive {s t : State} (hs : TreeSound s) {i p : SlotIx} {g : Grant} (hp : p ≠ i)
    (old : s.grant i = freeRecord (s.grant i).generation)
    (grant : ∀ j, t.grant j = if j = i then g
      else if j = p then { s.grant p with children := insertIndex (s.grant p).children i } else s.grant j)
    (parent : g.parent = some p) (up : UnderParent g (s.grant p)) (depth : g.depth ≤ 3) (children : g.children = []) :
    TreeSound t := by
  have none_under := hs.not_parent (i := i) (by rw [old]; rfl)
  have root : (s.grant i).parent = none := by rw [old]; rfl
  have new : t.grant i = g := by rw [grant, if_pos rfl]
  have same {x} (hx : x ≠ i) : ∃ c, t.grant x = { s.grant x with children := c } := by
    rw [grant, if_neg hx]
    by_cases e : x = p
    · subst e; exact ⟨_, if_pos rfl⟩
    · exact ⟨(s.grant x).children, if_neg e⟩
  have parents (j) : (t.grant j).parent = if j = i then some p else (s.grant j).parent := by
    by_cases e : j = i
    · subst e; rw [new, parent, if_pos rfl]
    · obtain ⟨c, hc⟩ := same e; rw [hc, if_neg e]
  refine ⟨fun j => ?_, fun j hj => ?_, fun j q hq => ?_, fun j k => ?_, fun j => ?_⟩
  · by_cases e : j = i
    · subst e; rw [new]; exact depth
    · obtain ⟨c, hc⟩ := same e; rw [hc]; exact hs.depth j
  · rw [parents] at hj
    by_cases e : j = i
    · simp [e] at hj
    · rw [if_neg e] at hj
      obtain ⟨c, hc⟩ := same e; rw [hc]; exact hs.root j hj
  · rw [parents] at hq
    by_cases e : j = i
    · rw [if_pos e, Option.some.injEq] at hq
      subst hq; subst e
      rw [new]; exact up.of_children ⟨g.children, rfl⟩ (same hp)
    · rw [if_neg e] at hq
      exact (hs.parent j q hq).of_children (same e) (same fun c => none_under j (c ▸ hq))
  · rw [parents, grant]
    by_cases e : j = i
    · subst e
      by_cases hk : k = j <;> simp [children, hk, hp, none_under k]
    · rw [if_neg e]
      have kept := hs.children j k
      by_cases ep : j = p
      · subst ep
        by_cases hk : k = i <;> simp [mem_insertIndex, hk, kept]
      · rw [if_neg ep, kept]
        by_cases hk : k = i
        · subst hk; simp [root, Ne.symm ep]
        · simp [hk]
  · rw [grant]
    by_cases e : j = i
    · simp [e, children]
    · rw [if_neg e]
      split
      · exact insertIndex_pairwise i (hs.sorted p)
      · exact hs.sorted j

theorem TreeSound.modify {s : State} (hs : TreeSound s) {i : SlotIx} {r : CommandRecord} (ha : AcceptsModify (s.grant i) r) :
    TreeSound (s.setGrant i (r.applied (s.grant i))) := by
  have grant := State.grant_setGrant s i (g := r.applied (s.grant i))
  have parent (j) : ((s.setGrant i (r.applied (s.grant i))).grant j).parent = (s.grant j).parent := by
    rw [grant]; split
    · rename_i e; rw [e]; rfl
    · rfl
  have children (j) : ((s.setGrant i (r.applied (s.grant i))).grant j).children = (s.grant j).children := by
    rw [grant]; split
    · rename_i e; rw [e]; rfl
    · rfl
  have depth (j) : ((s.setGrant i (r.applied (s.grant i))).grant j).depth = (s.grant j).depth := by
    rw [grant]; split
    · rename_i e; rw [e]; rfl
    · rfl
  refine ⟨fun j => by rw [depth]; exact hs.depth j, fun j hj => ?_, fun j p hp => ?_, fun j k => ?_, fun j => ?_⟩
  · rw [parent] at hj; rw [depth]; exact hs.root j hj
  · rw [parent] at hp
    have up := hs.parent j p hp
    have hpj : p ≠ j := by rintro rfl; have := up.depth; omega
    rw [grant, grant]
    by_cases e : j = i
    · subst e; rw [if_pos rfl, if_neg hpj]; exact up.modify_child ha
    · rw [if_neg e]
      by_cases ep : p = i
      · subst ep
        rw [if_pos rfl]
        refine up.modify_parent ha fun c => ?_
        have := (hs.children p j).mpr hp
        simp [c] at this
      · rw [if_neg ep]; exact up
  · rw [children, parent]; exact hs.children j k
  · rw [children]; exact hs.sorted j

theorem TreeSound.of_released {s : State} (free : ∀ i, s.grant i = freeRecord (s.grant i).generation) : TreeSound s where
  depth i := by rw [free]; exact Nat.zero_le _
  root i _ := by rw [free]; rfl
  parent i p hp := by rw [free] at hp; cases hp
  children i j := by rw [free i, free j]; simp [freeRecord]
  sorted i := by rw [free]; exact List.Pairwise.nil

/-- The grant that DERIVE allocates stands under its parent. -/
theorem GrantsDerive.underParent {p : Grant} {r : CommandRecord} (h : GrantsDerive p r) (good : GoodOperands r)
    (space : p.base.toNat + p.length ≤ 2 ^ 32) (g : BitVec 6) (i : SlotIx) :
    UnderParent (allocatedRecord r g (p.base + r.base) (some i) (p.depth + 1)) p := by
  have add := CommandRecord.base_add good h.length space
  have inside := h.length
  refine ⟨by simp [h.live], rfl, ?_, ?_, h.rights, fun _ => by simp [h.live, GrantState.inUse]⟩
  · show _ ≤ (p.base + r.base).toNat; omega
  · show (p.base + r.base).toNat + r.length ≤ _; omega

theorem GrantsSound.change {s t : State} (h : Change s t) (hs : GrantsSound s) : GrantsSound t := by
  refine ⟨hs.freeList.change h, hs.windows.change h hs.freeList, ?_⟩
  have head_free {i : SlotIx} {rest : List SlotIx} (head : s.freeList = i :: rest) :
      s.grant i = freeRecord (s.grant i).generation :=
    hs.freeList.values i ((hs.freeList.exact i).mp (by simp [head]))
  cases h with
  | bookkeeping wf shape free others => exact hs.tree.of_shape shape
  | drain line => exact hs.tree.drain line
  | free h => exact hs.tree.freeSlot (State.eligible_iff.mp h).2.2.1
  | @create r i rest good head space outside =>
    exact hs.tree.create (head_free head) (allocate_root_grant r i rest r.base 0 s) rfl rfl rfl
  | @derive r i p rest good head grants =>
    have hp := hs.freeList.head_ne head grants.live
    have space := hs.windows.space p (by rw [grants.live]; simp)
    exact hs.tree.derive hp (head_free head) (allocate_child_grant r hp rest _ _ s) rfl (grants.underParent good space _ _)
      grants.depth rfl
  | modify accepts => exact hs.tree.modify accepts
  | release idle wf free others => exact .of_released free
  | issue => exact hs.tree.of_grants rfl
  | endEntries entry others => exact hs.tree.of_grants (congrArg Blocks.grants others)
  | agents limits others => exact hs.tree.of_grants (congrArg Blocks.grants others)
  | ranges fits others => exact hs.tree.of_grants (congrArg Blocks.grants others)

end Sys2Proof.Machine
end

section
/-! Freeing (R8–R10): it ends with no slot eligible, and it takes the lowest eligible slot first. -/

namespace Sys2Proof.Machine

/-! ## Eligibility -/

/-- Eligibility reads states, children and notices of the table, and the tracker. -/
theorem State.eligible_congr {s t : State} {i : SlotIx} (hs : (t.grant i).state = (s.grant i).state)
    (hc : (t.grant i).children = (s.grant i).children) (hn : (t.grant i).noticeOwed = (s.grant i).noticeOwed)
    (ht : t.tracker = s.tracker) : t.eligible i = s.eligible i := by
  unfold State.eligible State.inFlight
  rw [hs, hc, hn, ht]

theorem State.eligible_of_grant {s t : State} {i : SlotIx} (h : t.grant i = s.grant i) (ht : t.tracker = s.tracker) :
    t.eligible i = s.eligible i := State.eligible_congr (by rw [h]) (by rw [h]) (by rw [h]) ht

theorem State.eligible_of_grants {s t : State} (hg : t.grants = s.grants) (ht : t.tracker = s.tracker) :
    t.eligible = s.eligible := by
  funext i
  exact State.eligible_of_grant (congrFun (State.grant_congr hg) i) ht

theorem NothingEligible.of_grants {s t : State} (hs : NothingEligible s) (hg : t.grants = s.grants)
    (ht : t.tracker = s.tracker) : NothingEligible t := fun i => by
  rw [State.eligible_of_grants hg ht]; exact hs i

/-- No slot becomes eligible. -/
theorem NothingEligible.of_imp {s t : State} (hs : NothingEligible s) (h : ∀ i, t.eligible i = true → s.eligible i = true) :
    NothingEligible t := fun i => by
  by_contra c
  have := h i (by simpa using c)
  simp [hs i] at this

theorem State.not_eligible_of_inUse {s : State} {i : SlotIx} (h : (s.grant i).state.inUse = true) : s.eligible i = false := by
  by_contra c
  have := (State.eligible_iff.mp (by simpa using c)).1
  simp [this] at h

theorem State.not_eligible_of_free {s : State} {i : SlotIx} (h : (s.grant i).state = .free) : s.eligible i = false := by
  by_contra c
  have := (State.eligible_iff.mp (by simpa using c)).1
  simp [this] at h

/-! ## Freeing comes to an end -/

/-- The DRAINING slots. -/
def State.drainingSlots (s : State) : Finset SlotIx := Finset.univ.filter fun i => (s.grant i).state = .draining

theorem State.mem_drainingSlots {s : State} {i : SlotIx} : i ∈ s.drainingSlots ↔ (s.grant i).state = .draining := by
  simp [State.drainingSlots]

/-- Freeing a slot leaves one DRAINING slot fewer. -/
theorem freeSlot_drainingSlots {s : State} {i : SlotIx} (h : s.eligible i = true) :
    (freeSlot i s).drainingSlots.card + 1 = s.drainingSlots.card := by
  have member : i ∈ s.drainingSlots := State.mem_drainingSlots.mpr (State.eligible_iff.mp h).1
  have erased : (freeSlot i s).drainingSlots = s.drainingSlots.erase i := by
    ext j
    rw [Finset.mem_erase, State.mem_drainingSlots, State.mem_drainingSlots, freeSlot_state]
    by_cases e : j = i <;> simp [e]
  rw [erased, Finset.card_erase_add_one member]

theorem State.drainingSlots_card_le (s : State) : s.drainingSlots.card ≤ 1024 := by
  simpa using Finset.card_le_univ s.drainingSlots

theorem freeLoop_succ_of_find {s : State} {i : SlotIx} (h : s.slots.find? s.eligible = some i) (n : Nat) :
    freeLoop (n + 1) s = freeLoop n (freeSlot i s) := by
  simp only [freeLoop, h]

/-- As many steps as there are DRAINING slots leave none eligible. -/
theorem freeLoop_eligible (n : Nat) {s : State} (h : s.drainingSlots.card ≤ n) (i : SlotIx) :
    (freeLoop n s).eligible i = false := by
  induction n generalizing s with
  | zero =>
    by_contra c
    have hi : s.eligible i = true := by simpa [freeLoop] using c
    have := freeSlot_drainingSlots hi
    omega
  | succ n ih =>
    cases hf : s.slots.find? s.eligible with
    | none =>
      have none := State.find_eligible_none.mp hf
      rw [freeLoop_of_none none]; exact none i
    | some j =>
      have := freeSlot_drainingSlots (List.find?_some hf)
      rw [freeLoop_succ_of_find hf]
      exact ih (by omega)

/-- More steps than there are DRAINING slots change nothing more. -/
theorem freeLoop_succ (n : Nat) {s : State} (h : s.drainingSlots.card ≤ n) : freeLoop (n + 1) s = freeLoop n s := by
  induction n generalizing s with
  | zero => exact freeLoop_of_none (freeLoop_eligible 0 h) 1
  | succ n ih =>
    cases hf : s.slots.find? s.eligible with
    | none => rw [freeLoop_of_none (State.find_eligible_none.mp hf), freeLoop_of_none (State.find_eligible_none.mp hf)]
    | some j =>
      have := freeSlot_drainingSlots (List.find?_some hf)
      rw [freeLoop_succ_of_find hf, freeLoop_succ_of_find hf]
      exact ih (by omega)

theorem freeAll_nothingEligible (s : State) : NothingEligible (freeAll s) := freeLoop_eligible 1024 s.drainingSlots_card_le

/-- Freeing starts with the first eligible slot of the table. -/
theorem freeAll_of_find {s : State} {i : SlotIx} (h : s.slots.find? s.eligible = some i) : freeAll s = freeAll (freeSlot i s) := by
  have fewer := freeSlot_drainingSlots (List.find?_some h)
  have := s.drainingSlots_card_le
  exact (freeLoop_succ_of_find h 1023).trans (freeLoop_succ 1023 (by omega)).symm

/-- Settles O15. -/
theorem freeingTakesTheLowestEligibleSlotFirst : Obligations.FreeingTakesTheLowestEligibleSlotFirst := by
  intro s wf
  refine ⟨fun i => ?_, fun i hi low => ?_, freeAll_of_none, freeAll_nothingEligible s⟩
  · rw [State.eligible_iff, State.inFlight_eq_zero]
  · refine freeAll_of_find ((find?_pairwise (State.slots_pairwise wf)).mpr ⟨State.mem_slots_of_eligible hi, hi, ?_⟩)
    exact fun j _ => low j

/-! ## The freeing of one slot -/

theorem freeSlot_tracker (i : SlotIx) (s : State) : (freeSlot i s).tracker = s.tracker := by rw [freeSlot_frame]

/-- The parent of a freed slot becomes eligible only where it drains and loses its last child; no other slot does. -/
theorem freeSlot_not_eligible {s : State} {i : SlotIx} (others : ∀ j, j ≠ i → s.eligible j = false)
    (notSelf : (s.grant i).parent ≠ some i)
    (parent : ∀ p, (s.grant i).parent = some p → (s.grant p).state ≠ .draining ∨ ∃ c ∈ (s.grant p).children, c ≠ i)
    (j : SlotIx) : (freeSlot i s).eligible j = false := by
  have grant := freeSlot_grant i s notSelf j
  by_cases hj : j = i
  · rw [if_pos hj] at grant
    exact State.not_eligible_of_free (by rw [grant]; rfl)
  · rw [if_neg hj] at grant
    by_cases hp : (s.grant i).parent = some j
    · rw [if_pos hp] at grant
      by_contra c
      obtain ⟨draining, -, leaf, -⟩ := State.eligible_iff.mp (by simpa using c)
      rw [grant] at draining leaf
      rcases parent j hp with h | ⟨c, hc, hne⟩
      · exact h draining
      · have : c ∈ (s.grant j).children.filter fun c => c != i := List.mem_filter.mpr ⟨hc, by simpa using hne⟩
        exact List.ne_nil_of_mem this leaf
    · rw [if_neg hp] at grant
      exact (State.eligible_of_grant grant (freeSlot_tracker i s)).trans (others j hj)

/-- Settles O14. -/
theorem freeingOneSlot : Obligations.FreeingOneSlot := by
  refine ⟨fun s i notSelf => ⟨freeSlot_grant i s notSelf, freeSlot_frame i s⟩, ?_⟩
  intro s i running eligible others notSelf parent members noBarrier
  have quiet : s.quiet.eligible = s.eligible := State.eligible_of_grants rfl rfl
  have freed : freeAll s.quiet = freeSlot i s.quiet :=
    freeAll_of_one (by rw [quiet]; exact eligible) (by rw [quiet]; exact others)
      (freeSlot_not_eligible (by rw [quiet]; exact others) notSelf parent)
  have held : ∀ (k : RetireIx) op, (freeSlot i s.quiet).retire[k] = some op → op.members ≠ [] := by
    intro k op hk
    rw [freeSlot_frame] at hk
    simp only [State.quiet_retire, Fin.getElem_fin, Vector.getElem_map, Option.map_eq_some_iff] at hk
    obtain ⟨old, hold, rfl⟩ := hk
    obtain ⟨m, hm, hne⟩ := members k old hold
    exact List.ne_nil_of_mem (List.mem_filter.mpr ⟨hm, by simpa using hne⟩)
  have settled : settle s.quiet = freeSlot i s.quiet := by
    unfold settle
    rw [freed, completeRetires_of_nonempty held, completeBarrier_of_none (by rw [freeSlot_frame]; exact noBarrier)]
  refine ⟨freeSlot i s.quiet, ?_, freeSlot_grant i s.quiet notSelf, freeSlot_frame i s.quiet⟩
  simp only [exec, execFreeing, happening_of_running running, freeing, quiet, eligible, if_true, settled]

end Sys2Proof.Machine
end

section
/-! Every command is a sequence of changes. -/

namespace Sys2Proof.Machine

/-! ## What a command's work leaves -/

/-- A command's work leads from one state to another: by changes, and with no slot left eligible where none was (R8, R10). -/
structure Leads (s t : State) : Prop where
  reaches : Reaches s t
  calm    : NothingEligible s → NothingEligible t

theorem Leads.refl {s : State} : Leads s s := ⟨.refl, id⟩

theorem Leads.trans {s u t : State} (h : Leads s u) (h' : Leads u t) : Leads s t :=
  ⟨h.reaches.trans h'.reaches, h'.calm ∘ h.calm⟩

/-- Writes outside the blocks. -/
theorem Leads.other {s t : State} (h : t.blocks = s.blocks) : Leads s t :=
  ⟨.other h, fun hs => hs.of_grants (congrArg Blocks.grants h) (congrArg Blocks.tracker h)⟩

theorem Leads.then_other {s u t : State} (h : Leads s u) (ho : t.blocks = u.blocks) : Leads s t := h.trans (.other ho)

/-- A change after which no slot is eligible that was not. -/
theorem Leads.of_change {s t : State} (h : Change s t) (calm : ∀ i, t.eligible i = true → s.eligible i = true) : Leads s t :=
  ⟨.of_change h, fun hs => hs.of_imp calm⟩

/-- A change to neither the table nor the tracker. -/
theorem Leads.of_change_elsewhere {s t : State} (h : Change s t) (hg : t.grants = s.grants) (ht : t.tracker = s.tracker) :
    Leads s t := .of_change h fun i hi => by rwa [State.eligible_of_grants hg ht] at hi

theorem foldl_leads {α : Type} {f : State → α → State} (h : ∀ s a, Leads s (f s a)) (l : List α) (s : State) :
    Leads s (l.foldl f s) := by
  induction l generalizing s with
  | nil => exact .refl
  | cons a rest ih => exact (h s a).trans (ih _)

/-! ## The table -/

theorem ne_freeRecord_of_state {g : Grant} {n : BitVec 6} (h : g.state ≠ .free) : g ≠ freeRecord n := fun e => h (by rw [e]; rfl)

/-- A write of leases, flags or notices to a slot that does not read as FREE. -/
theorem setGrant_reaches {s : State} {i : SlotIx} {g : Grant} (shape : g.shape = (s.grant i).shape)
    (nonFree : s.grant i ≠ freeRecord (s.grant i).generation) : Reaches s (s.setGrant i g) := by
  refine .of_change (.bookkeeping (State.setGrant_wf i g) (fun j => ?_) (fun j hj => ?_) rfl)
  · by_cases h : j = i
    · subst h; rwa [State.grant_setGrant_same]
    · rw [State.grant_setGrant_ne _ _ h]
  · exact State.grant_setGrant_ne _ _ fun e => nonFree (e ▸ hj)

theorem integrityRead_leads {i : SlotIx} {s : State} (h : (s.grant i).state ≠ .free) : Leads s (integrityRead i s) := by
  refine ⟨?_, fun hs => hs.of_imp fun j hj => ?_⟩
  · unfold integrityRead
    split
    · exact .refl
    · exact (setGrant_reaches (by rfl) (ne_freeRecord_of_state h)).then_other rfl
  · rwa [State.eligible_congr (s := s) (by rw [integrityRead_grant]) (by rw [integrityRead_grant])
      (by rw [integrityRead_grant]) (by rw [integrityRead_frame])] at hj

theorem foldl_integrityRead_leads {l : List SlotIx} {s : State} (h : ∀ i ∈ l, (s.grant i).state ≠ .free) :
    Leads s (l.foldl (fun s i => integrityRead i s) s) := by
  induction l generalizing s with
  | nil => exact .refl
  | cons i rest ih =>
    exact (integrityRead_leads (h i (by simp))).trans
      (ih fun j hj => by rw [integrityRead_state]; exact h j (by simp [hj]))

theorem integrityScan_leads (s : State) : Leads s (integrityScan s) :=
  foldl_integrityRead_leads fun _ hi => State.mem_nonFree.mp hi

theorem countdown_reaches (s : State) : Reaches s (countdown s) := by
  have grant (i) : (countdown s).grant i = countLease (s.grant i) :=
    State.grant_updateGrants s (fun _ g => countLease g) i rfl
  refine .of_change (.bookkeeping (fun _ => wf_mapGrants _ _) (fun i => ?_) (fun i hi => ?_) rfl)
  · rw [grant]; unfold countLease; split <;> rfl
  · rw [grant, hi]; rfl

theorem State.ChosenByLine.congr {s t : State} {which : SlotIx → Bool} (h : s.ChosenByLine which)
    (parent : ∀ i, (t.grant i).parent = (s.grant i).parent)
    (inUse : ∀ i, (t.grant i).state.inUse = true → (s.grant i).state.inUse = true) : t.ChosenByLine which := by
  obtain ⟨P, hP⟩ := h
  exact ⟨P, fun j hj => by rw [State.ancestors_congr parent]; exact hP j (inUse j hj)⟩

theorem State.within_iff {s : State} {top i : SlotIx} : s.within top i = true ↔ i = top ∨ top ∈ s.ancestors i := by
  simp [State.within]

theorem State.chosenByLine_within (s : State) (top : SlotIx) : s.ChosenByLine (s.within top) :=
  ⟨fun x => top = x, fun j _ => by rw [State.within_iff]; simp [eq_comm]⟩

theorem State.ne_free_of_inUse {s : State} {i : SlotIx} (h : (s.grant i).state.inUse = true) : (s.grant i).state ≠ .free :=
  fun e => by simp [e] at h

/-- The non-FREE slots that meet a condition on a slot or one of its ancestors. -/
theorem State.chosenByLine_nonFree {s : State} {members : List SlotIx} (P : SlotIx → Prop)
    (h : ∀ j, j ∈ members ↔ (s.grant j).state ≠ .free ∧ ∃ x ∈ j :: s.ancestors j, P x) :
    s.ChosenByLine fun i => members.contains i :=
  ⟨P, fun j hj => by rw [List.contains_iff_mem, h j]; simp [State.ne_free_of_inUse hj]⟩

/-! ## Freeing, completions, timeouts -/

theorem freeLoop_reaches (n : Nat) (s : State) : Reaches s (freeLoop n s) := by
  induction n generalizing s with
  | zero => exact .refl
  | succ n ih =>
    unfold freeLoop
    split
    · exact .refl
    · rename_i i hi
      exact (Reaches.of_change (.free (List.find?_some hi))).trans (ih _)

theorem freeAll_reaches (s : State) : Reaches s (freeAll s) := freeLoop_reaches _ s

theorem purgeEffects_leads (s : State) : Leads s (purgeEffects s) :=
  .of_change_elsewhere (.ranges (fun x => .inr (.inl (by simp [purgeEffects]))) rfl) rfl rfl

@[simp] theorem processorAfterRetire_blocks (k : RetireKind) (s : State) : (processorAfterRetire k s).blocks = s.blocks := by
  unfold processorAfterRetire; split <;> simp

theorem completeRetire_leads (k : RetireIx) (op : RetireOp) (s : State) : Leads s (completeRetire k op s) := by
  unfold completeRetire
  split
  · exact (purgeEffects_leads s).then_other (by simp)
  · exact .other (by simp)

theorem completeIfEmpty_leads (s : State) (k : RetireIx) : Leads s (completeIfEmpty s k) := by
  unfold completeIfEmpty
  split
  · exact .refl
  · split
    · exact completeRetire_leads _ _ _
    · exact .refl

theorem completeRetires_leads (s : State) : Leads s (completeRetires s) := foldl_leads completeIfEmpty_leads _ s

@[simp] theorem completeBarrier_blocks (s : State) : (completeBarrier s).blocks = s.blocks := by
  unfold completeBarrier
  split
  · rfl
  · split
    · rfl
    · split
      · rw [takeTest_blocks]; rfl
      all_goals rfl

/-- Settling frees whatever work before it made eligible. -/
theorem Reaches.settle {s u : State} (h : Reaches s u) : Leads s (settle u) := by
  have completed : Leads (freeAll u) (Machine.settle u) := (completeRetires_leads _).then_other (completeBarrier_blocks _)
  exact ⟨(h.trans (freeAll_reaches u)).trans completed.reaches, fun _ => completed.calm (freeAll_nothingEligible u)⟩

theorem timeoutRetire_reaches (s : State) (k : RetireIx) : Reaches s (timeoutRetire s k) := by
  refine .of_change (.endEntries (fun j => ?_) (by rw [timeoutRetire_frame]; rfl))
  rw [timeoutRetire_tracker]
  simp only [Fin.getElem_fin, Vector.getElem_map]
  split
  · rename_i h
    refine .inr (.inr ⟨?_, rfl⟩)
    simp only [Entry.issuedUnder, Bool.and_eq_true, decide_eq_true_eq] at h
    exact h.1
  · exact .inl rfl

theorem timeoutRetires_reaches (ks : List RetireIx) (s : State) : Reaches s (timeoutRetires ks s) :=
  (foldl_reaches timeoutRetire_reaches ks s).then_other rfl

/-! ## Notices and lapses -/

theorem postOwed_reaches (n : Nat) (s : State) : Reaches s (postOwed n s) := by
  induction n generalizing s with
  | zero => exact .refl
  | succ n ih =>
    unfold postOwed
    split
    · exact .refl
    · split
      · exact .refl
      · split
        · exact .refl
        · rename_i i _ _ notice hn
          have nonFree : s.grant i ≠ freeRecord (s.grant i).generation := fun e => by rw [e] at hn; cases hn
          have posted : Reaches s (postOwedOf i notice s) :=
            (setGrant_reaches (by rfl) nonFree).then_other (State.post_blocks _ _)
          exact posted.trans (ih _)

theorem offerNotice_reaches {i : SlotIx} {n : Notice} {s : State} (h : (s.grant i).state ≠ .free) :
    Reaches s (offerNotice i n s) := by
  unfold offerNotice
  split
  · exact setGrant_reaches (by rfl) (ne_freeRecord_of_state h)
  · exact .other rfl

/-- The state in which a lapse has taken the lease away and moved the subtree of a grant in use to DRAINING (R6, R123). -/
def lapseDrained (s : State) (i : SlotIx) : State :=
  if (s.grant i).state.inUse then drainSlots (s.within i) (s.setGrant i { s.grant i with lease := none })
  else s.setGrant i { s.grant i with lease := none }

/-- The number of descendants that a lapse moves (R124). -/
def lapseMoved (s : State) (i : SlotIx) : Nat :=
  if (s.grant i).state.inUse then (s.slots.filter fun j => j != i && s.within i j && (s.grant j).state.inUse).length else 0

/-- The notice of a lapse (R124). -/
def lapseNotice (s u : State) (i : SlotIx) : Notice :=
  { handle := mkHandle i (u.grant i).generation, label := (u.grant i).ownerLabel, grantee := (u.grant i).grantee
    moved := lapseMoved s i }

theorem lapseGrant_eq (s : State) (i : SlotIx) : lapseGrant s i =
    offerNotice i (lapseNotice s (integrityRead i (lapseDrained s i)) i) (integrityRead i (lapseDrained s i)) := rfl

theorem lapseDrained_state_free (s : State) (i j : SlotIx) :
    ((lapseDrained s i).grant j).state = .free ↔ (s.grant j).state = .free := by
  have unleased : ((s.setGrant i { s.grant i with lease := none }).grant j).state = (s.grant j).state := by
    by_cases h : j = i
    · subst h; simp
    · rw [State.grant_setGrant_ne _ _ h]
  unfold lapseDrained
  split
  · rw [drainSlots_state_free, unleased]
  · rw [unleased]

theorem offerNotice_state (i : SlotIx) (n : Notice) (s : State) (j : SlotIx) :
    ((offerNotice i n s).grant j).state = (s.grant j).state := by
  unfold offerNotice
  split
  · by_cases h : j = i
    · subst h; simp
    · rw [State.grant_setGrant_ne _ _ h]
  · rfl

theorem lapseGrant_state_free (s : State) (i j : SlotIx) :
    ((lapseGrant s i).grant j).state = .free ↔ (s.grant j).state = .free := by
  rw [lapseGrant_eq, offerNotice_state, integrityRead_state, lapseDrained_state_free]

theorem lapseDrained_reaches {s : State} {i : SlotIx} (h : (s.grant i).state ≠ .free) : Reaches s (lapseDrained s i) := by
  have unleased : Reaches s (s.setGrant i { s.grant i with lease := none }) :=
    setGrant_reaches (by rfl) (ne_freeRecord_of_state h)
  unfold lapseDrained
  split
  · refine unleased.trans (.of_change (.drain ((s.chosenByLine_within i).congr (fun j => ?_) fun j => ?_)))
    · by_cases hj : j = i
      · subst hj; simp
      · rw [State.grant_setGrant_ne _ _ hj]
    · by_cases hj : j = i
      · subst hj; simp
      · rw [State.grant_setGrant_ne _ _ hj]; exact id
  · exact unleased

theorem lapseGrant_reaches {s : State} {i : SlotIx} (h : (s.grant i).state ≠ .free) : Reaches s (lapseGrant s i) := by
  have h' : ((lapseDrained s i).grant i).state ≠ .free := mt (lapseDrained_state_free s i i).mp h
  rw [lapseGrant_eq]
  exact ((lapseDrained_reaches h).trans (integrityRead_leads h').reaches).trans
    (offerNotice_reaches (by rwa [integrityRead_state]))

theorem foldl_lapseGrant_reaches {l : List SlotIx} {s : State} (h : ∀ i ∈ l, (s.grant i).state ≠ .free) :
    Reaches s (l.foldl lapseGrant s) := by
  induction l generalizing s with
  | nil => exact .refl
  | cons i rest ih =>
    exact (lapseGrant_reaches (h i (by simp))).trans
      (ih fun j hj => mt (lapseGrant_state_free s i j).mp (h j (by simp [hj])))

theorem tickStages_reaches (s : State) : Reaches s (tickStages s) := by
  refine ((countdown_reaches s).trans (foldl_lapseGrant_reaches fun i hi => ?_)).trans (timeoutRetires_reaches _ _)
  have hi := (List.mem_filter.mp hi).2
  simp only [lapsing, Bool.and_eq_true] at hi
  exact State.ne_free_of_inUse hi.1

theorem leaseTick_leads (s : State) : Leads s (leaseTick s) := by
  unfold leaseTick
  refine (tickStages_reaches s).settle.then_other ?_
  rw [stopProcessor_blocks, takeTest_blocks]
  generalize settle (tickStages s) = u
  rfl

theorem lapse_leads (i : SlotIx) (s : State) : Leads s (lapse i s) := by
  unfold lapse
  split
  · rename_i h
    exact (lapseGrant_reaches h.1).settle.then_other (by simp)
  · exact .refl

theorem owedNoticePosted_leads (s : State) : Leads s (owedNoticePosted s) := by
  unfold owedNoticePosted
  split
  · exact .refl
  · exact (postOwed_reaches 1 s).settle.then_other (by simp)

theorem drainTimeout_leads (k : RetireIx) (s : State) : Leads s (drainTimeout k s) := by
  unfold drainTimeout
  split
  · exact (timeoutRetires_reaches [k] s).settle.then_other (by simp)
  · exact .refl

theorem freeing_leads (i : SlotIx) (s : State) : Leads s (freeing i s) := by
  unfold freeing
  split
  · exact Reaches.refl.settle
  · exact .refl

theorem retireCompletion_leads (k : RetireIx) (s : State) : Leads s (retireCompletion k s) := by
  unfold retireCompletion
  split
  · exact .refl
  · split
    · exact (completeRetire_leads _ _ s).then_other (completeBarrier_blocks _)
    · exact .refl

/-! ## Accesses -/

theorem offerFault_leads (a : AgentIx) (f : HeldFault) (s : State) : Leads s (offerFault a f s) := by
  rw [offerFault_eq]
  refine .of_change_elsewhere (.agents (fun b => .inl ?_) rfl) rfl rfl
  simp only [Fin.getElem_fin]
  split
  · by_cases h : b = a
    · subst h; simp
    · have : a.val ≠ b.val := fun c => h (Fin.ext c.symm)
      simp [this]
  · exact ⟨rfl, rfl⟩

/-- What the first five checks establish of a request that fails none (R30–R33). -/
theorem checksToStale_eq_none {s : State} {a : AgentIx} {q : Request} (h : checksToStale s a q = none) :
    s.runState = .running ∧ s.admitted a = true ∧ (1 ≤ q.length.toNat ∧ q.length.toNat ≤ 4096) ∧
      s.resolves q.handle = true := by
  unfold checksToStale at h
  split at h
  · cases h
  · rename_i stopped
    split at h
    · cases h
    · rename_i admitted
      split at h
      · cases h
      · rename_i shape
        split at h
        · cases h
        · split at h
          · cases h
          · rename_i resolves
            refine ⟨?_, by simpa using admitted, by omega, by simpa using resolves⟩
            cases hr : s.runState with
            | running => rfl
            | stopped => exact absurd hr stopped

theorem State.resolves_iff {s : State} {h : Handle} : s.resolves h = true ↔
    (s.grant (handleSlot h)).state ≠ .free ∧ (s.grant (handleSlot h)).generation = handleGeneration h := by
  simp [State.resolves]

/-- Another ISSUED entry makes no slot eligible. -/
theorem setEntry_eligible_of_empty {s : State} {k : EntryIx} (empty : s.tracker[k].state = .empty) (e : Entry) {i : SlotIx}
    (h : (s.setEntry k e).eligible i = true) : s.eligible i = true := by
  rw [State.eligible_iff] at h ⊢
  obtain ⟨draining, idle, leaf, notice⟩ := h
  refine ⟨draining, State.inFlight_eq_zero.mpr fun j hj => ?_, leaf, notice⟩
  have hjk : j ≠ k := fun c => by subst c; simp only [empty] at hj; cases hj
  have := State.inFlight_eq_zero.mp idle j
  rw [State.setEntry_tracker_get, if_neg hjk] at this
  exact this hj

theorem issueAccess_leads {a : AgentIx} {q : Request} {s : State} (live : (s.grant (handleSlot q.handle)).state ≠ .free)
    (length : 1 ≤ q.length.toNat ∧ q.length.toNat ≤ 4096) (limit : s.outstanding a < s.agents[a].limit) :
    Leads s (issueAccess a q s) := by
  unfold issueAccess
  split
  · exact .refl
  · rename_i k hk
    have empty := (State.firstEmpty_eq_some.mp hk).1
    exact (Leads.of_change (.issue empty live length.1 length.2 limit) fun i =>
      setEntry_eligible_of_empty empty _).then_other rfl

theorem faultAccess_leads (a : AgentIx) (q : Request) (f : FaultKind) (s : State) : Leads s (faultAccess a q f s) := by
  unfold faultAccess
  split
  · exact (Leads.other (State.respond_blocks s _)).trans (offerFault_leads _ _ _)
  · exact .other rfl

theorem takeLane_leads {a : AgentIx} {q : Request} {s : State} (h : takeable s a = true) : Leads s (takeLane a q s) := by
  let taken : State := { s.setLane a none with lanePointer := a }
  have start : Leads s taken := .other rfl
  refine (start.trans (t := match accessCheck a q taken with
    | (none, checked) => issueAccess a q checked
    | (some f, checked) => faultAccess a q f checked) ?_).then_other ((stopProcessor_blocks _).trans rfl)
  unfold accessCheck
  cases hc : checksToStale taken a q with
  | some f => exact faultAccess_leads a q f taken
  | none =>
    obtain ⟨running, admitted, length, resolves⟩ := checksToStale_eq_none hc
    have live := (State.resolves_iff.mp resolves).1
    have read : Leads taken (integrityRead (handleSlot q.handle) taken) := integrityRead_leads live
    refine read.trans ?_
    dsimp only
    cases checksFromDamaged (integrityRead (handleSlot q.handle) taken) a q with
    | some f => exact faultAccess_leads a q f _
    | none =>
      refine issueAccess_leads (by rwa [integrityRead_state]) length ?_
      have limit : s.outstanding a < s.agents[a].limit := by
        have hr : s.runState = .running := running
        have ha : s.admitted a = true := admitted
        simp only [takeable, hr, ha, Bool.and_eq_true, Bool.or_eq_true, Bool.not_true, decide_eq_true_eq] at h
        rcases h.2 with (h | h) | h
        · cases h
        · cases h
        · exact h.1
      rw [integrityRead_frame]; exact limit

theorem accessTake_leads (s : State) : Leads s (accessTake s) := by
  unfold accessTake
  split
  · exact .refl
  · rename_i a ha
    split
    · exact .refl
    · exact takeLane_leads (List.find?_some ha)

theorem setEntry_emptied_reaches (k : EntryIx) (s : State) : Reaches s (s.setEntry k Entry.emptied) := by
  refine .of_change (.endEntries (fun j => ?_) rfl)
  rw [State.setEntry_tracker_get]
  split
  · exact .inr (.inl rfl)
  · exact .inl rfl

/-- An entry that ends makes no slot eligible but a DRAINING one that it was ISSUED under. -/
theorem setEntry_emptied_leads {k : EntryIx} {s : State}
    (h : s.tracker[k].state = .issued → (s.grant s.tracker[k].grant).state ≠ .draining) :
    Leads s (s.setEntry k Entry.emptied) := by
  refine ⟨setEntry_emptied_reaches k s, fun hs => hs.of_imp fun i hi => ?_⟩
  rw [State.eligible_iff] at hi ⊢
  obtain ⟨draining, idle, leaf, notice⟩ := hi
  refine ⟨draining, State.inFlight_eq_zero.mpr fun j hj => ?_, leaf, notice⟩
  by_cases hjk : j = k
  · subst hjk
    rintro rfl
    exact h hj draining
  · have := State.inFlight_eq_zero.mp idle j
    rw [State.setEntry_tracker_get, if_neg hjk] at this
    exact this hj

theorem answerOk_blocks (e : Entry) (data : List Byte) (s : State) : (answerOk e data s).blocks = s.blocks := by
  unfold answerOk; split <;> rfl

theorem answerError_leads (e : Entry) (s : State) : Leads s (answerError e s) := by
  unfold answerError
  refine .trans (.other ?_) (offerFault_leads _ _ _)
  rfl

/-- The state in which the requester of an ISSUED entry has its answer. -/
def answered (e : Entry) (status : MemStatus) (data : List Byte) (s : State) : State :=
  match status with
  | .ok => answerOk e data s
  | .error => answerError e s

theorem completeIssued_eq (k : EntryIx) (e : Entry) (status : MemStatus) (data : List Byte) (s : State) :
    completeIssued k e status data s = settleIfDraining e.grant ((answered e status data s).setEntry k Entry.emptied) := by
  unfold completeIssued answered; cases status <;> rfl

theorem answered_leads (e : Entry) (status : MemStatus) (data : List Byte) (s : State) :
    Leads s (answered e status data s) := by
  cases status with
  | ok => exact .other (answerOk_blocks _ _ _)
  | error => exact answerError_leads _ _

theorem answerError_frame (e : Entry) (s : State) : answerError e s =
    { s with faultSlots := (answerError e s).faultSlots, agents := (answerError e s).agents, out := (answerError e s).out,
             freeDraws := (answerError e s).freeDraws } := by
  unfold answerError; rw [offerFault_eq]; rfl

theorem answered_grants (e : Entry) (status : MemStatus) (data : List Byte) (s : State) :
    (answered e status data s).grants = s.grants ∧ (answered e status data s).tracker = s.tracker := by
  cases status with
  | ok => exact ⟨congrArg Blocks.grants (answerOk_blocks e data s), congrArg Blocks.tracker (answerOk_blocks e data s)⟩
  | error => unfold answered; rw [answerError_frame]; exact ⟨rfl, rfl⟩

theorem completeIssued_leads (k : EntryIx) (status : MemStatus) (data : List Byte) (s : State) :
    Leads s (completeIssued k s.tracker[k] status data s) := by
  have answer := answered_leads s.tracker[k] status data s
  obtain ⟨grants, tracker⟩ := answered_grants s.tracker[k] status data s
  rw [completeIssued_eq]
  unfold settleIfDraining
  split
  · exact (answer.reaches.trans (setEntry_emptied_reaches k _)).settle
  · rename_i h
    refine answer.trans (setEntry_emptied_leads fun _ => ?_)
    rw [tracker]; exact h

theorem memoryCompletion_leads (k : EntryIx) (status : MemStatus) (data : List Byte) (s : State) :
    Leads s (memoryCompletion k status data s) := by
  unfold memoryCompletion
  split
  · exact completeIssued_leads k status data s
  · rename_i h; exact setEntry_emptied_leads fun c => absurd (h.symm.trans c) (by decide)
  · exact .other (by simp)

/-! ## Takes of the command processor -/

theorem takeCommand_leads {wanted : Option CommandKind} {body : CommandRecord → State → Verdict × State} {s : State}
    (h : ∀ r u, Leads u (body r u).2) : Leads s (takeCommand wanted body s) := by
  unfold takeCommand
  split
  · exact .refl
  · split
    · split
      · exact .other (by simp)
      · rename_i r rest _ _ _
        have taken : Leads s (s.takeHead rest) := .other rfl
        exact (taken.trans (h r _)).then_other (by simp)
    · exact .refl

theorem refuse_leads (st : Status) (s : State) : Leads s (refuse st s).2 := .refl

theorem CommandRecord.goodOperands {r : CommandRecord} (h : r.grantOperandsBad = false) : GoodOperands r := by
  simp only [CommandRecord.grantOperandsBad, badLength, maxLength, Bool.or_eq_false_iff, beq_eq_false_iff_ne, ne_eq,
    decide_eq_false_iff_not, not_lt] at h
  obtain ⟨⟨rights, nonzero, high⟩, -⟩ := h
  exact ⟨rights, Nat.pos_of_ne_zero nonzero, not_lt.mp (of_decide_eq_false high)⟩

/-- An allocation makes no slot eligible: the new slot is LIVE, and its parent has a child more. -/
theorem allocate_eligible {r : CommandRecord} {i : SlotIx} {rest : List SlotIx} {base : BitVec 32} {parent : Option SlotIx}
    {depth : Nat} {s : State} {j : SlotIx} (h : (allocate r i rest base parent depth s).eligible j = true) :
    s.eligible j = true := by
  obtain ⟨draining, idle, leaf, notice⟩ := State.eligible_iff.mp h
  have hji : j ≠ i := by rintro rfl; rw [allocate_state, if_pos rfl] at draining; cases draining
  have same : (allocate r i rest base parent depth s).grant j = s.grant j := by
    cases parent with
    | none => rw [allocate_root_grant, if_neg hji]
    | some p =>
      have hjp : j ≠ p := by
        rintro rfl
        rw [allocate_child_eq, linkChild, State.grant_setGrant_same] at leaf
        exact List.ne_nil_of_mem (mem_insertIndex.mpr (.inr rfl)) leaf
      rw [allocate_child_eq, linkChild, State.grant_setGrant_ne _ _ hjp, State.grant_setGrant_ne _ _ hji]; rfl
  exact (State.eligible_of_grant same (by rw [allocate_frame])).symm.trans h

/-- CREATE and DERIVE end in a refusal or in the allocation of the head of the free list (R89). -/
theorem allocateChecked_leads {r : CommandRecord} {base : BitVec 32} {parent : Option SlotIx} {depth : Nat} {s : State}
    (h : ∀ i rest, s.freeList = i :: rest → Change s (allocate r i rest base parent depth s)) :
    Leads s (allocateChecked r base parent depth s).2 := by
  unfold allocateChecked
  split
  · exact .refl
  · split
    · exact .refl
    · rename_i i rest head
      exact .of_change (h i rest head) fun _ => allocate_eligible

theorem createBody_leads (r : CommandRecord) (s : State) : Leads s (createBody r s).2 := by
  unfold createBody
  split
  · exact .refl
  · rename_i good
    split
    · exact .refl
    · rename_i space
      split
      · exact .refl
      · rename_i outside
        exact allocateChecked_leads fun i rest head => .create (CommandRecord.goodOperands (by simpa using good)) head
          (not_lt.mp space) (by simpa using outside)

theorem deriveFrom_leads {p : SlotIx} {r : CommandRecord} {s : State} (good : GoodOperands r)
    (live : (s.grant p).state = .live) : Leads s (deriveFrom p r s).2 := by
  unfold deriveFrom
  dsimp only
  split
  · exact .refl
  · split
    · exact .refl
    · split
      · exact .refl
      · rename_i depth
        split
        · exact .refl
        · rename_i subset
          split
          · exact .refl
          · rename_i inside
            exact allocateChecked_leads fun i rest head => .derive good head
              ⟨live, not_le.mp depth, by simpa using subset, not_lt.mp inside⟩

theorem deriveBody_leads (r : CommandRecord) (s : State) : Leads s (deriveBody r s).2 := by
  unfold deriveBody
  split
  · exact .refl
  · rename_i good
    split
    · exact .refl
    · rename_i resolved
      simp only [not_or, not_not] at resolved
      have live := resolved.2
      exact (integrityRead_leads (by simp [live])).trans
        (deriveFrom_leads (CommandRecord.goodOperands (by simpa using good)) (by rw [integrityRead_state]; exact live))

theorem modifyStateOk_inUse {r : CommandRecord} {st : GrantState} (h : modifyStateOk r st = true) : st.inUse = true := by
  cases st with
  | live | suspended => rfl
  | free | draining => cases h

/-- What R90 leaves of the values of a MODIFY that is not malformed. -/
theorem CommandRecord.modify_values {r : CommandRecord} (h : r.modifyBad = false) :
    (r.setRights = true → r.rights ≠ Rights.none) ∧ (r.setLength = true → 1 ≤ r.length) := by
  simp only [CommandRecord.modifyBad, Bool.or_eq_false_iff] at h
  obtain ⟨⟨⟨⟨-, rights⟩, length⟩, -⟩, -⟩ := h
  refine ⟨fun e => ?_, fun e => ?_⟩
  · simpa [e] using rights
  · rw [if_pos e] at length
    simp only [badLength, Bool.or_eq_false_iff, beq_eq_false_iff_ne] at length
    have := length.1
    omega

/-- A MODIFY makes no slot eligible: its target stays in use. -/
theorem AcceptsModify.eligible {s : State} {i j : SlotIx} {r : CommandRecord} (ha : AcceptsModify (s.grant i) r)
    (h : (s.setGrant i (r.applied (s.grant i))).eligible j = true) : s.eligible j = true := by
  have hji : j ≠ i := by
    rintro rfl
    rw [State.not_eligible_of_inUse (by rw [State.grant_setGrant_same]; exact ha.applied_inUse)] at h
    cases h
  have same := State.grant_setGrant_ne s (r.applied (s.grant i)) hji
  exact (State.eligible_of_grant same rfl).symm.trans h

theorem modifyTarget_leads {i : SlotIx} {r : CommandRecord} {s : State} (values : r.modifyBad = false)
    (inUse : (s.grant i).state.inUse = true) : Leads s (modifyTarget i r s).2 := by
  obtain ⟨rights, length⟩ := CommandRecord.modify_values values
  unfold modifyTarget
  dsimp only
  split
  · exact .refl
  · split
    · exact .refl
    · rename_i leaf
      split
      · exact .refl
      · rename_i subset
        split
        · exact .refl
        · rename_i shorter
          have accepts : AcceptsModify (s.grant i) r := by
            refine ⟨inUse, fun e => ⟨rights e, by simpa [e] using subset⟩, fun e => ⟨length e, by simpa [e] using shorter⟩,
              fun children => ?_⟩
            simp only [CommandRecord.reshapes, Bool.and_eq_true, Bool.not_eq_true', List.isEmpty_eq_false_iff,
              Bool.or_eq_true, bne_iff_ne, ne_eq, not_and, not_or, not_not] at leaf
            exact leaf children
          exact .of_change (.modify accepts) fun j => accepts.eligible

theorem modifyBody_leads (r : CommandRecord) (s : State) : Leads s (modifyBody r s).2 := by
  unfold modifyBody
  split
  · exact .refl
  · rename_i values
    split
    · exact .refl
    · rename_i resolved
      simp only [not_or, Bool.not_eq_true, Bool.not_eq_false'] at resolved
      have inUse := modifyStateOk_inUse resolved.2
      exact (integrityRead_leads (State.ne_free_of_inUse inUse)).trans
        (modifyTarget_leads (by simpa using values) (by rw [integrityRead_state]; exact inUse))

theorem queryBody_leads (r : CommandRecord) (s : State) : Leads s (queryBody r s).2 := by
  unfold queryBody
  split
  · rename_i resolves
    exact integrityRead_leads (State.resolves_iff.mp resolves).1
  · exact .refl

/-! ## Revoking commands -/

theorem drainMembers_leads {members : List SlotIx} {s : State} (line : s.ChosenByLine fun i => members.contains i) :
    Leads s (drainMembers members s) := by
  unfold drainMembers
  split
  · exact ⟨(Reaches.of_change (.drain line)).trans (freeAll_reaches _), fun _ => freeAll_nothingEligible _⟩
  · exact .refl

@[simp] theorem afterOpening_blocks (kind : RetireKind) (k : RetireIx) (s : State) :
    (afterOpening kind k s).blocks = s.blocks := by
  unfold afterOpening; split <;> simp

theorem openOperation_leads {kind : RetireKind} {r : CommandRecord} {target : Option Handle} {members : List SlotIx}
    {s : State} (line : s.ChosenByLine fun i => members.contains i) :
    Leads s (openOperation kind r target members s) := by
  unfold openOperation
  split
  · exact .refl
  · rename_i k _
    have opened : Leads s (s.setRetire k (some (openedOp kind r.tag target members s.config.drainTimeout))) := .other rfl
    have complete (u : State) : Leads u (completeTakes k u) :=
      (foldl_leads completeIfEmpty_leads _ u).trans (completeIfEmpty_leads _ k)
    exact ((opened.trans (drainMembers_leads line)).trans (complete _)).then_other (by simp)

theorem State.mem_revokeMembers {s : State} {i j : SlotIx} :
    j ∈ revokeMembers s i ↔ (s.grant j).state ≠ .free ∧ (j = i ∨ i ∈ s.ancestors j) := by
  simp [revokeMembers, State.within_iff]

theorem State.mem_agentMembers {s : State} {a : AgentIx} {j : SlotIx} :
    j ∈ agentMembers s a ↔ (s.grant j).state ≠ .free ∧ ∃ x ∈ j :: s.ancestors j, (s.grant x).grantee = a := by
  simp [agentMembers]

theorem revokeBody_leads (r : CommandRecord) (s : State) : Leads s (revokeBody r s).2 := by
  unfold revokeBody
  split
  · rename_i resolves
    refine (integrityRead_leads (State.resolves_iff.mp resolves).1).trans (openOperation_leads ?_)
    exact State.chosenByLine_nonFree (handleSlot r.handle = ·) fun j => by rw [State.mem_revokeMembers]; simp [eq_comm]
  · exact .refl

theorem revokeAgentBody_leads (r : CommandRecord) (s : State) : Leads s (revokeAgentBody r s).2 :=
  (integrityScan_leads s).trans
    (openOperation_leads (State.chosenByLine_nonFree _ fun _ => State.mem_agentMembers))

theorem purgeBody_leads (r : CommandRecord) (s : State) : Leads s (purgeBody r s).2 :=
  openOperation_leads (State.chosenByLine_nonFree (fun _ => True) fun j => by simp)

theorem barrierBody_leads (r : CommandRecord) (s : State) : Leads s (barrierBody r s).2 := by
  unfold barrierBody
  split
  · exact .refl
  · exact .other rfl

/-! ## Settings -/

/-- A write of one agent record, with limit and quota kept or in range. -/
theorem setAgent_leads {s : State} {a : AgentIx} {g : Agent}
    (h : (g.limit = s.agents[a].limit ∧ g.quota = s.agents[a].quota) ∨ ((1 ≤ g.limit ∧ g.limit ≤ 8) ∧ g.quota ≤ 1024)) :
    Leads s (s.setAgent a g) := by
  refine .of_change_elsewhere (.agents (fun b => ?_) rfl) rfl rfl
  have get : (s.setAgent a g).agents[b] = if b = a then g else s.agents[b] := by
    by_cases e : b = a
    · subst e; simp [State.setAgent]
    · have : a.val ≠ b.val := fun c => e (Fin.ext c.symm)
      simp [State.setAgent, e, this]
  rw [get]
  split
  · rename_i e; subst e; exact h
  · exact .inl ⟨rfl, rfl⟩

theorem agentSetBody_leads (r : CommandRecord) (s : State) : Leads s (agentSetBody r s).2 := by
  unfold agentSetBody
  split
  · exact .refl
  · rename_i good
    split
    · exact .refl
    · refine setAgent_leads (.inr ?_)
      simp only [CommandRecord.agentSetBad, Bool.or_eq_true, decide_eq_true_eq, beq_iff_eq, not_or, not_lt] at good
      obtain ⟨⟨⟨⟨-, quota⟩, nonzero⟩, limit⟩, -⟩ := good
      exact ⟨⟨Nat.pos_of_ne_zero nonzero, limit⟩, quota⟩

theorem moveAgent_leads (source target : AgentState) (r : CommandRecord) (s : State) :
    Leads s (moveAgent source target r s).2 := by
  unfold moveAgent
  split
  · exact setAgent_leads (.inl ⟨rfl, rfl⟩)
  · exact .refl

/-- A write of one exclusion range. -/
theorem setRange_leads {s : State} {x : RangeIx} {v : ExclusionRange} (h : s.RangeFits v) : Leads s (s.setRange x v) := by
  refine .of_change_elsewhere (.ranges (fun y => ?_) rfl) rfl rfl
  by_cases e : y = x
  · subst e; right; simpa [State.setRange] using h
  · have : x.val ≠ y.val := fun c => e (Fin.ext c.symm)
    left; simp [State.setRange, this]

theorem excludeSetBody_leads (r : CommandRecord) (s : State) : Leads s (excludeSetBody r s).2 := by
  unfold excludeSetBody
  split
  · exact .refl
  · rename_i good
    split
    · exact .refl
    · split
      · rename_i enable
        split
        · exact .refl
        · rename_i space
          refine (integrityScan_leads s).trans ?_
          unfold enableRange
          split
          · exact .refl
          · rename_i none
            refine setRange_leads (.inr ⟨rfl, ?_, ?_, not_lt.mp space, fun i hi => ?_⟩)
            all_goals simp only [CommandRecord.excludeSetBad, enable, if_true, badLength, maxLength, Bool.or_eq_true,
              decide_eq_true_eq, beq_iff_eq, not_or, not_lt] at good
            · exact Nat.pos_of_ne_zero good.2.1
            · exact not_lt.mp (mt decide_eq_true good.2.2)
            · have := List.find?_eq_none.mp none i (State.mem_nonFree.mpr hi)
              simp only [windowsOverlap, Bool.and_eq_true, decide_eq_true_eq] at this
              exact fun ⟨h1, h2⟩ => this ⟨h2, h1⟩
      · exact setRange_leads (.inl ⟨rfl, rfl, rfl⟩)

theorem freezeBody_leads (r : CommandRecord) (s : State) : Leads s (freezeBody r s).2 := by
  unfold freezeBody
  split
  · exact .refl
  · split
    · exact .refl
    · exact .other rfl

theorem configureBody_leads (r : CommandRecord) (s : State) : Leads s (configureBody r s).2 := by
  unfold configureBody
  split
  · exact .refl
  · split
    · exact .refl
    · exact .other rfl

/-! ## Resets -/

theorem releasedRecord_free (g : Grant) : releasedRecord g = freeRecord (releasedRecord g).generation := rfl

/-- Every slot after a reset. -/
theorem grantAt_released (t : GrantTable) (i : SlotIx) :
    grantAt (mapGrants (fun _ g => releasedRecord g) t) i = releasedRecord (grantAt t i) :=
  grantAt_mapGrants _ _ _ (by simp [releasedRecord, freeRecord])

theorem softReset_leads (s : State) : Leads s (softReset s) := by
  let issued (e : Entry) : Bool := decide (e.state = .issued)
  have entry (k : EntryIx) : (abandonEntries issued s).tracker[k] =
      if s.tracker[k].state = .issued then s.tracker[k].abandon else s.tracker[k] := by simp [issued]
  have ended : Reaches s (abandonEntries issued s) := by
    refine .of_change (.endEntries (fun k => ?_) rfl)
    rw [entry]
    split
    · rename_i h; exact .inr (.inr ⟨h, rfl⟩)
    · exact .inl rfl
  have grant (i : SlotIx) : (softReset s).grant i = releasedRecord (s.grant i) := grantAt_released s.grants i
  refine ⟨ended.trans (.of_change (.release (fun k => ?_) (wf_mapGrants _ _) (fun i => ?_) rfl)), fun _ i => ?_⟩
  · rw [entry]
    split
    · simp [Entry.abandon]
    · assumption
  · rw [grant]; exact releasedRecord_free _
  · exact State.not_eligible_of_free (by rw [grant]; rfl)

theorem inResetState_leads {table : GrantTable} (wf : table.wf = true)
    (free : ∀ i, grantAt table i = freeRecord (grantAt table i).generation) (s : State) :
    Leads s (inResetState table s) := by
  let cleared : State := { s with tracker := Vector.replicate 64 Entry.emptied }
  let released : State := { cleared with grants := table, freeList := allBelow 1024 }
  let settled : State := { released with agents := State.reset.agents }
  let opened : State := { settled with ranges := State.reset.ranges }
  have h1 : Reaches s cleared := .of_change (.endEntries (fun k => .inr (.inl (by simp [cleared]))) rfl)
  have h2 : Reaches cleared released :=
    .of_change (.release (fun k => by simp [cleared, Entry.emptied]) wf free rfl)
  have h3 : Reaches released settled := .of_change (.agents (fun a => .inr (by simp [settled, State.reset])) rfl)
  have h4 : Reaches settled opened := .of_change (.ranges (fun x => .inr (.inl (by simp [opened, State.reset]))) rfl)
  have freed (i : SlotIx) : (inResetState table s).grant i = freeRecord ((inResetState table s).grant i).generation := free i
  exact ⟨(((h1.trans h2).trans h3).trans h4).then_other rfl, fun _ i => State.not_eligible_of_free (by rw [freed i]; rfl)⟩

/-! ## Host writes and the service port -/

theorem pushCommand_leads (s : State) : Leads s (pushCommand s) := by
  unfold pushCommand
  split
  · exact .other rfl
  · dsimp only
    split
    · exact .other (by rw [takeTest_blocks]; rfl)
    · exact .other rfl

theorem popResponse_leads (s : State) : Leads s (popResponse s) := by
  unfold popResponse
  split
  · exact .refl
  · rename_i rest _
    have popped : Leads s { s with responseQueue := rest } := .other rfl
    dsimp only
    split
    · exact (popped.reaches.trans (postOwed_reaches 32 _)).settle.then_other (by simp)
    · exact popped.then_other (by simp)

theorem resumeAction_leads (s : State) : Leads s (resumeAction s) := by
  unfold resumeAction
  split
  · exact .other (by simp)
  · exact .refl

theorem discardAction_leads (s : State) : Leads s (discardAction s) := by
  unfold discardAction
  split
  · split
    · exact .other (by simp)
    · exact .other rfl
  · exact .refl

theorem discardRemoval_leads (s : State) : Leads s (discardRemoval s) := by
  unfold discardRemoval
  split
  · exact .refl
  · split
    · dsimp only
      split
      · exact .other (by rw [takeTest_blocks]; rfl)
      · exact .other rfl
    · exact .refl

theorem writeControl_leads (v : Word) (s : State) : Leads s (writeControl v s) := by
  unfold writeControl
  have cleared : Leads s (if v.getLsbD 3 then clearPushRefused s else s) := by
    split
    · exact .other rfl
    · exact .refl
  split
  · exact softReset_leads s
  · dsimp only
    split
    · exact cleared.trans (discardAction_leads _)
    · split
      · exact cleared.trans (resumeAction_leads _)
      · exact cleared

theorem acknowledgeFault_leads (v : Word) (s : State) : Leads s (acknowledgeFault v s) := by
  unfold acknowledgeFault
  split
  · exact .refl
  · exact .other rfl

theorem selectFault_leads (v : Word) (s : State) : Leads s (selectFault v s) := by
  unfold selectFault
  split
  · exact .refl
  · exact .other rfl

theorem hostWrite_leads (reg : BitVec 5) (v : Word) (s : State) : Leads s (hostWrite reg v s) := by
  unfold hostWrite
  split
  case h_1 => exact writeControl_leads v s
  case h_10 => exact pushCommand_leads s
  case h_11 => exact popResponse_leads s
  case h_12 => exact selectFault_leads v s
  case h_13 => exact acknowledgeFault_leads v s
  all_goals exact .other rfl

theorem judgeGrantRead_leads (hi lo : Byte) (s : State) : Leads s (judgeGrantRead hi lo s) := by
  unfold judgeGrantRead
  split
  · exact .other (by simp)
  · split
    · exact .other (by simp)
    · rename_i i _ _
      have read : Leads s (grantReadCheck i s) := by
        unfold grantReadCheck
        split
        · exact .refl
        · rename_i h; exact integrityRead_leads h
      exact read.then_other (by simp)

theorem judgeAgentRead_leads (b : Byte) (s : State) : Leads s (judgeAgentRead b s) := by
  unfold judgeAgentRead
  split <;> exact .other (by simp)

theorem judgeHold_leads (opcode : Byte) (value : Bool) (b : Byte) (s : State) : Leads s (judgeHold opcode value b s) := by
  unfold judgeHold
  split
  · exact .other (by simp)
  · rename_i a _
    have set : Leads s (s.setAgent a { s.agents[a] with hold := value }) := setAgent_leads (.inl ⟨rfl, rfl⟩)
    exact set.then_other (by simp)

theorem judgedAfter_leads {received : List Byte} {judge : State → State} {s : State} (h : Leads s (judge s)) :
    Leads s (judgedAfter received judge s) := by
  unfold judgedAfter
  split
  · exact h
  · exact .refl

theorem keepByte_leads (b : Byte) (s : State) : Leads s (keepByte b s) := .other rfl
theorem judgeStatusRead_leads (s : State) : Leads s (judgeStatusRead s) := .other rfl
theorem judgeErrorRead_leads (s : State) : Leads s (judgeErrorRead s) := .other rfl
theorem judgeBadFrame_leads (b : Byte) (s : State) : Leads s (judgeBadFrame b s) := .other rfl

theorem commandByte_leads (b : Byte) (s : State) : Leads s (commandByte b s) := by
  unfold commandByte
  split
  · split
    · exact judgeStatusRead_leads s
    · exact judgeErrorRead_leads s
    case h_7 => exact judgeBadFrame_leads b s
    all_goals exact keepByte_leads b s
  · split
    · exact judgeAgentRead_leads b s
    · exact judgeHold_leads _ _ b s
    · exact judgeHold_leads _ _ b s
    · exact keepByte_leads b s
  · exact judgeGrantRead_leads _ b s

theorem receiveByte_leads (b : Byte) (s : State) : Leads s (receiveByte b s) := by
  unfold receiveByte
  split
  · exact .refl
  · exact commandByte_leads b s
  · unfold answerByte; split <;> exact .other rfl
  · exact .other rfl

theorem grantRead_leads (lo : Byte) (s : State) : Leads s (grantRead lo s) := by
  unfold grantRead
  split
  · exact .refl
  · exact judgeGrantRead_leads _ lo s

/-! ## Every command -/

theorem happening_leads {f : State → State} {s t : State} (h : happening f s = .next t) (hf : ∀ u, Leads u (f u)) :
    Leads s t := by
  have quiet : Leads s s.quiet := .other rfl
  cases hr : s.inReset with
  | true => rw [happening_in_reset hr] at h; cases h; exact quiet
  | false => rw [happening_of_running hr] at h; cases h; exact quiet.trans (hf _)

/-- Every command is a sequence of changes that leaves no slot eligible where none was. -/
theorem exec_leads {c : Instr} {s t : State} (h : exec c s = .next t) : Leads s t := by
  cases c with
  | powerOnReset => cases h; exact inResetState_leads rfl (fun _ => rfl) s
  | hardwareReset =>
    cases h
    exact inResetState_leads (wf_mapGrants _ _) (fun i => by rw [grantAt_released]; exact releasedRecord_free _) s
  | softReset => exact happening_leads h softReset_leads
  | requestPresented a q =>
    refine happening_leads h fun u => ?_
    unfold presentRequest
    split
    · exact .other rfl
    · exact .refl
  | accessTake => exact happening_leads h accessTake_leads
  | memoryCompletion k status data => exact happening_leads h (memoryCompletion_leads k status data)
  | freeing i => exact happening_leads h (freeing_leads i)
  | retireCompletion k => exact happening_leads h (retireCompletion_leads k)
  | barrierCompletion => exact happening_leads h fun u => .other (completeBarrier_blocks u)
  | leaseTick => exact happening_leads h leaseTick_leads
  | lapse i => exact happening_leads h (lapse_leads i)
  | owedNoticePosted => exact happening_leads h owedNoticePosted_leads
  | drainTimeout k => exact happening_leads h (drainTimeout_leads k)
  | push v => exact happening_leads h pushCommand_leads
  | pop v => exact happening_leads h popResponse_leads
  | resume => exact happening_leads h resumeAction_leads
  | discard => exact happening_leads h discardAction_leads
  | pushRefusedClear => exact happening_leads h fun _ => .other rfl
  | discardRemoval => exact happening_leads h discardRemoval_leads
  | errorClear v => exact happening_leads h fun _ => .other rfl
  | faultAck v => exact happening_leads h (acknowledgeFault_leads v)
  | faultSelect v => exact happening_leads h (selectFault_leads v)
  | intEnable v => exact happening_leads h fun _ => .other rfl
  | registerWrite reg v => exact happening_leads h (hostWrite_leads reg v)
  | create => exact happening_leads h fun _ => takeCommand_leads createBody_leads
  | derive => exact happening_leads h fun _ => takeCommand_leads deriveBody_leads
  | modify => exact happening_leads h fun _ => takeCommand_leads modifyBody_leads
  | query => exact happening_leads h fun _ => takeCommand_leads queryBody_leads
  | revoke => exact happening_leads h fun _ => takeCommand_leads revokeBody_leads
  | revokeAgent => exact happening_leads h fun _ => takeCommand_leads revokeAgentBody_leads
  | purge => exact happening_leads h fun _ => takeCommand_leads purgeBody_leads
  | barrier => exact happening_leads h fun _ => takeCommand_leads barrierBody_leads
  | agentSet => exact happening_leads h fun _ => takeCommand_leads agentSetBody_leads
  | quarantine => exact happening_leads h fun _ => takeCommand_leads (moveAgent_leads _ _)
  | release => exact happening_leads h fun _ => takeCommand_leads (moveAgent_leads _ _)
  | excludeSet => exact happening_leads h fun _ => takeCommand_leads excludeSetBody_leads
  | freeze => exact happening_leads h fun _ => takeCommand_leads freezeBody_leads
  | configure => exact happening_leads h fun _ => takeCommand_leads configureBody_leads
  | unknownKindCode => exact happening_leads h fun _ => takeCommand_leads fun _ u => refuse_leads .malformed u
  | statusRead => exact happening_leads h fun u => judgedAfter_leads (judgeStatusRead_leads u)
  | errorRead => exact happening_leads h fun u => judgedAfter_leads (judgeErrorRead_leads u)
  | agentRead b => exact happening_leads h fun u => judgedAfter_leads (judgeAgentRead_leads b u)
  | grantRead b => exact happening_leads h (grantRead_leads b)
  | hold b => exact happening_leads h fun u => judgedAfter_leads (judgeHold_leads _ _ b u)
  | unhold b => exact happening_leads h fun u => judgedAfter_leads (judgeHold_leads _ _ b u)
  | badFrame b =>
    refine happening_leads h fun u => ?_
    split
    · exact judgedAfter_leads (judgeBadFrame_leads b u)
    · exact .refl
  | resetRelease =>
    cases h
    split <;> exact .other rfl
  | csAsserted =>
    cases h
    split <;> exact .other rfl
  | csDeasserted => cases h; exact .other rfl
  | fullByteReceived b => exact happening_leads h (receiveByte_leads b)

/-- What every change keeps, every command keeps. -/
theorem keptByEveryCommand_of_change {Inv : State → Prop} (h : ∀ s t, Change s t → Inv s → Inv t) :
    KeptByEveryCommand Inv := by
  intro c s t hs he
  have reached := (exec_leads he).reaches
  clear he
  induction reached with
  | refl => exact hs
  | tail _ change ih => exact h _ _ change ih

/-! ## The obligations -/

/-- Settles O59. -/
theorem noEligibleSlotIsLeftBehind : Obligations.NoEligibleSlotIsLeftBehind := fun _ _ _ hs he => (exec_leads he).calm hs

/-- Settles O56. -/
theorem delegationTreeStaysSound : Obligations.DelegationTreeStaysSound :=
  keptByEveryCommand_of_change fun _ _ h hs => hs.change h

/-- Settles O54. -/
theorem trackerAndOutstandingCountsStaySound : Obligations.TrackerAndOutstandingCountsStaySound :=
  ⟨keptByEveryCommand_of_change fun _ _ h hs => hs.change h, keptByEveryCommand_of_change fun _ _ h hs => hs.change h⟩

/-- The grant count of an agent, slot by slot (R133). -/
theorem grantCount_eq {s : State} (h : s.grants.wf = true) (a : AgentIx) : s.grantCount a =
    (List.finRange 1024).countP fun i => decide ((s.grant i).state ≠ .free ∧ (s.grant i).grantee = a) := by
  have perm : s.nonFree.Perm ((List.finRange 1024).filter fun i => decide ((s.grant i).state ≠ .free)) := by
    rw [List.perm_ext_iff_of_nodup ((State.nonFree_pairwise h).imp ne_of_lt) ((List.nodup_finRange _).filter _)]
    intro i; simp
  rw [State.grantCount, perm.countP_eq, List.countP_filter]
  refine List.countP_congr fun i _ => ?_
  simp [and_comm]

/-- Each slot is either on the free list or non-FREE (R13). -/
theorem FreeListSound.length_add {s : State} (h : FreeListSound s) :
    s.freeList.length + (List.finRange 1024).countP (fun i => decide ((s.grant i).state ≠ .free)) = 1024 := by
  have perm : s.freeList.Perm ((List.finRange 1024).filter fun i => decide ((s.grant i).state = .free)) := by
    rw [List.perm_ext_iff_of_nodup h.nodup ((List.nodup_finRange _).filter _)]
    intro i; simp [h.exact i]
  have total := List.length_eq_countP_add_countP (fun i => decide ((s.grant i).state = .free)) (l := List.finRange 1024)
  rw [List.length_finRange] at total
  rw [perm.length_eq, ← List.countP_eq_length_filter]
  simpa using total.symm

/-- Settles O51. -/
theorem freeListStaysExact : Obligations.FreeListStaysExact :=
  ⟨keptByEveryCommand_of_change fun _ _ h hs => hs.change h,
    fun _ hs => ⟨hs.length_add, fun a => grantCount_eq hs.canonical a⟩⟩

end Sys2Proof.Machine
end

section
/-! The resets (R20, R21, R41, R56, R79), and the state after reset. -/

namespace Sys2Proof.Machine

theorem allBelow_map_val (n : Nat) : (allBelow n).map Fin.val = List.range n := by
  rw [allBelow_eq_finRange, List.map_coe_finRange_eq_range]

theorem releasedRecord_eq (g : Grant) :
    releasedRecord g = freeRecord (g.generation + if g.state = .free then 0 else 1) := by
  unfold releasedRecord; split <;> simp

/-- Settles O4. -/
theorem powerOnAndHardwareResetState : Obligations.PowerOnAndHardwareResetState := by
  intro s
  refine ⟨⟨_, rfl, ⟨allBelow_map_val 1024, rfl⟩, fun _ => rfl⟩, ⟨_, rfl, ⟨allBelow_map_val 1024, rfl⟩, fun i => ?_⟩⟩
  exact (grantAt_released s.grants i).trans (releasedRecord_eq _)

/-! ## The responses of a soft reset -/

/-- The share of one lane in the answers to entries (R24, R52). -/
theorem State.answersTo_lane (s : State) (which : Entry → Bool) (answer : LaneOutcome) (a : AgentIx) :
    (s.answersTo which answer).filter (fun r => r.lane == a) =
      (s.tracker.toList.filter fun e => which e && decide (e.agent = a)).map
        fun e => { lane := a, tag := e.tag, outcome := answer } := by
  unfold State.answersTo
  rw [List.filter_map, List.filter_filter]
  have test : (fun e : Entry => ((fun r : LaneResponse => r.lane == a) ∘
      fun e : Entry => ({ lane := e.agent, tag := e.tag, outcome := answer } : LaneResponse)) e && which e) =
      fun e => which e && decide (e.agent = a) := by
    funext e; simp [Bool.and_comm, beq_eq_decide]
  rw [test]
  refine List.map_congr_left fun e he => ?_
  have : e.agent = a := by simpa using (Bool.and_eq_true_iff.mp (List.mem_filter.mp he).2).2
  rw [this]

/-- One number of all below a bound, chosen. -/
theorem filterMap_allBelow_ite {n : Nat} {α : Type} (f : Fin n → Option α) (a : Fin n) :
    (allBelow n).filterMap (fun b => if b = a then f b else none) = (f a).toList := by
  have single : (allBelow n).filter (fun b => decide (b = a)) = [a] := by
    rw [allBelow_eq_finRange, List.filter_eq, List.count_finRange]; rfl
  have split : (allBelow n).filterMap (fun b => if b = a then f b else none) =
      ((allBelow n).filter fun b => decide (b = a)).filterMap f := by
    rw [List.filterMap_filter]
    exact List.filterMap_congr fun b _ => by simp
  rw [split, single]
  cases h : f a <;> simp [h]

/-- The share of one lane in the RESETs to waiting requests (R41). -/
theorem laneResets_lane (s : State) (a : AgentIx) : (laneResets s).filter (fun r => r.lane == a) =
    s.lanes[a].toList.map fun q => { lane := a, tag := q.tag, outcome := .reset } := by
  unfold laneResets
  rw [List.filter_filterMap]
  have own : (fun b : AgentIx => Option.filter (fun r : LaneResponse => r.lane == a)
        (s.lanes[b].map fun q => { lane := b, tag := q.tag, outcome := .reset })) =
      fun b => if b = a then s.lanes[b].map fun q => { lane := b, tag := q.tag, outcome := .reset } else none := by
    funext b
    by_cases h : b = a
    · subst h; cases s.lanes[b] <;> simp
    · cases s.lanes[b] <;> simp [h]
  rw [own, filterMap_allBelow_ite]
  cases s.lanes[a] <;> rfl

/-- Settles O5. -/
theorem softResetState : Obligations.SoftResetState := by
  intro s running
  refine ⟨softReset s.quiet, happening_of_running running, fun i => ?_, allBelow_map_val 1024, fun k => ?_, fun a => ?_, rfl⟩
  · exact (grantAt_released s.grants i).trans (releasedRecord_eq _)
  · show (s.tracker.map fun e => if decide (e.state = .issued) then e.abandon else e)[k] = _
    simp only [Fin.getElem_fin, Vector.getElem_map, decide_eq_true_eq]
    rfl
  · show List.filter _ ([] ++ (s.answersTo (fun e => decide (e.state = .issued)) .reset ++ laneResets s)) = _
    rw [List.nil_append, List.filter_append, State.answersTo_lane, laneResets_lane]
    simp only [Bool.decide_and]

/-! ## The state after reset -/

theorem reset_grant (i : SlotIx) : State.reset.grant i = freeRecord 0 := rfl
theorem reset_tracker (k : EntryIx) : State.reset.tracker[k] = Entry.emptied := by simp [State.reset]
theorem reset_retire (k : RetireIx) : State.reset.retire[k] = none := by simp [State.reset]
theorem reset_agents (a : AgentIx) : State.reset.agents[a] = ⟨.disabled, false, 1024, 4, false⟩ := by simp [State.reset]
theorem reset_ranges (x : RangeIx) : State.reset.ranges[x] = ⟨false, 0, 0⟩ := by simp [State.reset]

theorem reset_freeListSound : FreeListSound State.reset where
  canonical := rfl
  values i _ := by rw [reset_grant]; rfl
  nodup := allBelow_nodup 1024
  exact i := by rw [reset_grant]; simp [State.reset, freeRecord]

theorem reset_windowsSound : WindowsSound State.reset where
  length i h := absurd rfl h
  space i h := absurd rfl h
  rights i h := absurd rfl h
  enabled x h := by rw [reset_ranges] at h; cases h
  disabled x _ := by rw [reset_ranges]; exact ⟨rfl, rfl⟩
  excluded i h := absurd rfl h

theorem reset_drainingSound : DrainingSound State.reset where
  grants := ⟨reset_freeListSound, reset_windowsSound, .of_released fun _ => rfl⟩
  retire := by
    have none {k : RetireIx} {op : RetireOp} (h : State.reset.retire[k] = some op) : False := by
      rw [reset_retire] at h; cases h
    exact ⟨fun _ _ h => (none h).elim, fun _ _ h => (none h).elim, fun _ _ h => (none h).elim, fun _ _ h => (none h).elim,
      fun _ _ h => (none h).elim, by decide, fun _ _ _ _ h => (none h).elim, fun _ _ h => (none h).elim, fun h => (nomatch h)⟩

theorem reset_agentsSound : AgentsSound State.reset where
  limit a := by rw [reset_agents]; decide
  quota a := by rw [reset_agents]
  outstanding a := by
    have none : State.reset.outstanding a = 0 := by
      rw [State.outstanding, vector_countP_eq_zero]
      intro k; rw [reset_tracker]; rfl
    omega

theorem reset_trackerSound : TrackerSound State.reset :=
  trackerSound_iff.mpr fun k => by rw [reset_tracker]; exact .emptied _

/-- Settles O60. -/
theorem stateAfterResetIsSound : Obligations.StateAfterResetIsSound := by
  refine ⟨reset_drainingSound, ⟨by decide, by decide, ?_, fun h => (nomatch h), fun h => (nomatch h)⟩,
    ⟨by decide, fun h => (nomatch h), fun _ => rfl, rfl⟩, reset_trackerSound, reset_agentsSound,
    ⟨fun i n h => (nomatch h), fun i n h => (nomatch h), fun h => (nomatch h)⟩, fun i => State.not_eligible_of_free rfl⟩
  rw [State.openCount_eq_zero.mpr reset_retire]; rfl

end Sys2Proof.Machine
end

section
/-! CREATE, DERIVE, MODIFY and QUERY: their ordered checks are those of the rules, and what each leaves. -/

namespace Sys2Proof.Machine

/-! ## Completed takes -/

@[simp] theorem completedTake_grants (u : State) (rest : List CommandRecord) (c : ResponseRecord) :
    (completedTake u rest c).grants = u.grants := takeTest_grants _

theorem completedTake_grant (u : State) (rest : List CommandRecord) (c : ResponseRecord) :
    (completedTake u rest c).grant = u.grant := State.grant_congr (completedTake_grants u rest c)

/-- A refusal of a take, in a device that may have been stopped by the command's own read. -/
theorem endTake_refused_stopping (r : CommandRecord) (st : Status) (h : Option Handle) (u : State)
    (rest : List CommandRecord) :
    endTake r (.completes st h .absent) (u.takeHead rest) = stopProcessor (endedTake u rest r st h) := by
  rw [endTake_completes]; cases st <;> rfl

/-- A read and the removal of the head record do not meet. -/
theorem integrityRead_takeHead (i : SlotIx) (s : State) (rest : List CommandRecord) :
    integrityRead i (s.takeHead rest) = (integrityRead i s).takeHead rest := by
  unfold integrityRead
  have same : (s.takeHead rest).grant i = s.grant i := rfl
  rw [same]
  split <;> rfl

/-! ## CREATE -/

/-- An answer by the first failing check, check by check. -/
theorem firstFailing_answer {α β : Type} (answer : Option α → β) (x : α) (b : Bool) (l : List (α × Bool)) :
    answer (firstFailing ((x, b) :: l)) = if b then answer (some x) else answer (firstFailing l) := by
  cases b <;> rfl

/-- Check 1 of CREATE and DERIVE (R82). -/
theorem CommandRecord.grantOperandsBad_eq (r : CommandRecord) : r.grantOperandsBad =
    decide (r.rights = ⟨false, false, false⟩ ∨ r.c3.toNat = 0 ∨ 2 ^ 24 < r.c3.toNat ∨ 1048575 < r.c4.toNat) := by
  unfold CommandRecord.grantOperandsBad badLength maxLength maxLease CommandRecord.length CommandRecord.lease Rights.none
  simp only [Bool.decide_or, beq_eq_decide, Bool.or_assoc, Nat.reducePow]

theorem State.excluded_eq (s : State) (r : CommandRecord) : s.excluded r.base.toNat r.length =
    s.ranges.toList.any fun x => decide (x.enabled = true ∧ x.base.toNat < r.c2.toNat + r.c3.toNat ∧
      r.c2.toNat < x.base.toNat + x.length) := by
  unfold State.excluded windowsOverlap CommandRecord.base CommandRecord.length
  congr 1; funext x
  simp only [Bool.decide_and, Bool.decide_eq_true, Bool.and_comm]

/-- How CREATE answers by its first failing check (R80, R84). -/
def createAnswer (s : State) (r : CommandRecord) : Option Status → Verdict × State
  | some st => refuse st s
  | none =>
    match s.freeList with
    | [] => refuse .noFreeSlot s
    | i :: rest => (.completes .ok (some (mkHandle i (s.grant i).generation)) .absent, allocate r i rest r.base none 0 s)

theorem createBody_eq (s : State) (r : CommandRecord) :
    createBody r s = createAnswer s r (firstFailing (createChecks s r)) := by
  unfold createBody allocateChecked
  simp only [createChecks, firstFailing_answer (createAnswer s r), ← CommandRecord.grantOperandsBad_eq, ← State.excluded_eq,
    decide_eq_true_eq]
  refine if_congr Iff.rfl rfl (if_congr Iff.rfl rfl (if_congr Iff.rfl rfl (if_congr Iff.rfl rfl ?_)))
  unfold createAnswer
  cases s.freeList <;> rfl

/-- Settles O29. -/
theorem createAllocatesOrRefuses : Obligations.CreateAllocatesOrRefuses := by
  intro s r rest ready passes
  have checks : createChecks (s.quiet.takeHead rest) r = createChecks s r := rfl
  simp only [exec, execCreate]
  rw [take_of_passes ready passes, createBody_eq, checks]
  refine ⟨fun st h => ?_, fun i free h head => ?_⟩
  · rw [h]
    exact congrArg _ (endTake_refused st none rest ready.running)
  · let u := allocate r i free r.base none 0 s.quiet
    have allocated : createAnswer (s.quiet.takeHead rest) r none =
        (.completes .ok (some (mkHandle i (s.grant i).generation)) .absent, u.takeHead rest) := by
      have head' : (s.quiet.takeHead rest).freeList = i :: free := head
      simp only [createAnswer, head']
      rfl
    rw [h, allocated]
    refine ⟨_, congrArg _ (endTake_running .ok _ .absent rest ready.running), fun j => ?_, ?_⟩
    · exact (congrFun (completedTake_grant u rest _) j).trans (allocate_root_grant r i free r.base 0 s.quiet j)
    · simp only [Status.halts, Bool.false_eq_true, if_false, completedTake_grants]
      rfl

/-! ## DERIVE -/

/-- A slot after its own read. -/
theorem integrityRead_grant_same (i : SlotIx) (s : State) : (integrityRead i s).grant i =
    { s.grant i with damaged := (s.grant i).damaged || !(s.grant i).codeMatches } := by
  rw [integrityRead_grant]; simp

/-- Where the damaged flag is not set after a read, the read found nothing. -/
theorem integrityRead_of_undamaged {i : SlotIx} {s : State}
    (h : ((s.grant i).damaged || !(s.grant i).codeMatches) = false) : integrityRead i s = s := by
  simp only [Bool.or_eq_false_iff, Bool.not_eq_false'] at h
  exact integrityRead_of_ok (.inl h.2)

/-- The delegable right cannot be missing where the parent is delegable. -/
theorem Rights.subset_of_delegable {a b : Rights} (h : b.delegable = true) :
    a.subset b = !((a.read && !b.read) || (a.write && !b.write)) := by
  simp [Rights.subset, h]

/-- Check 2 of DERIVE (R85). -/
theorem derive_notLive_iff (s : State) (h : Handle) : (!s.resolves h ∨ (s.grant (handleSlot h)).state ≠ .live) ↔
    ((s.grant (handleSlot h)).state ≠ .live ∨ (s.grant (handleSlot h)).generation ≠ handleGeneration h) := by
  by_cases live : (s.grant (handleSlot h)).state = .live <;> simp [State.resolves, live]

/-- How DERIVE answers by its first failing check, with the mismatch that check 3 records (R18, R80, R88). -/
def deriveAnswer (s : State) (r : CommandRecord) : Option Status → Verdict × State
  | some st => refuse st (if st = .damaged then integrityRead (handleSlot r.handle) s else s)
  | none =>
    match s.freeList with
    | [] => refuse .noFreeSlot s
    | i :: rest =>
      (.completes .ok (some (mkHandle i (s.grant i).generation)) .absent,
        allocate r i rest ((s.grant (handleSlot r.handle)).base + r.base) (some (handleSlot r.handle))
          ((s.grant (handleSlot r.handle)).depth + 1) s)

theorem deriveBody_eq (s : State) (r : CommandRecord) :
    deriveBody r s = deriveAnswer s r (firstFailing (deriveChecks s r)) := by
  unfold deriveBody
  simp only [deriveChecks, firstFailing_answer (deriveAnswer s r), ← CommandRecord.grantOperandsBad_eq, derive_notLive_iff,
    decide_eq_true_eq]
  refine if_congr Iff.rfl rfl (if_congr Iff.rfl rfl ?_)
  unfold deriveFrom
  rw [integrityRead_grant_same]
  refine ite_congr rfl (fun _ => rfl) fun undamaged => ?_
  rw [integrityRead_of_undamaged (by simpa using undamaged)]
  refine ite_congr rfl (fun _ => rfl) fun delegable => ?_
  rw [Rights.subset_of_delegable (by simpa using delegable), Bool.not_not]
  unfold allocateChecked
  refine if_congr Iff.rfl rfl (if_congr Iff.rfl rfl (if_congr Iff.rfl rfl (if_congr Iff.rfl rfl ?_)))
  unfold deriveAnswer
  cases s.freeList <;> rfl

/-- Settles O31. -/
theorem deriveRefusesInOrder : Obligations.DeriveRefusesInOrder := by
  intro s r rest st ready passes h
  have checks : deriveChecks (s.quiet.takeHead rest) r = deriveChecks s r := rfl
  simp only [exec, execDerive]
  rw [take_of_passes ready passes, deriveBody_eq, checks, h, ← endTake_refused_stopping]
  simp only [deriveAnswer, refuse, integrityRead_takeHead]
  split <;> rfl

theorem firstFailing_derive_live {s : State} {r : CommandRecord} (h : firstFailing (deriveChecks s r) = none) :
    (s.grant (handleSlot r.handle)).state = .live := by
  simp only [deriveChecks, firstFailing_eq_none, List.forall_mem_cons, decide_eq_false_iff_not, not_or, not_not] at h
  exact h.2.1.1

/-- Settles O30. -/
theorem deriveAllocates : Obligations.DeriveAllocates := by
  intro s r rest i free ready passes h head old p
  have checks : deriveChecks (s.quiet.takeHead rest) r = deriveChecks s r := rfl
  have hp : p ≠ i := fun e => by
    have live : (s.grant p).state = .live := firstFailing_derive_live h
    rw [e, old] at live; cases live
  have base : (s.grant p).base + r.base = BitVec.ofNat 32 ((s.grant p).base.toNat + r.c2.toNat) := by
    apply BitVec.eq_of_toNat_eq; simp [CommandRecord.base, BitVec.toNat_add]
  let u := allocate r i free ((s.grant p).base + r.base) (some p) ((s.grant p).depth + 1) s.quiet
  have grant (j) : u.grant j = _ := allocate_child_grant r hp free _ _ s.quiet j
  have parent : u.grant p = { s.grant p with children := insertIndex (s.grant p).children i } := by
    rw [grant, if_neg hp, if_pos rfl]; rfl
  have allocated : deriveAnswer (s.quiet.takeHead rest) r none =
      (.completes .ok (some (mkHandle i (s.grant i).generation)) .absent, u.takeHead rest) := by
    have head' : (s.quiet.takeHead rest).freeList = i :: free := head
    simp only [deriveAnswer, head']
    rfl
  have ended := endTake_running .ok (some (mkHandle i (s.grant i).generation)) .absent (r := r) (u := u) rest ready.running
  refine ⟨completedTake u rest (completionOf r .ok (some (mkHandle i (s.grant i).generation)) .absent), ?_, ?_, ?_, ?_, ?_, ?_⟩
  · simp only [exec, execDerive]
    rw [take_of_passes ready passes, deriveBody_eq, checks, h, allocated]
    exact congrArg _ ended
  · rw [completedTake_grant, grant, if_pos rfl, base]; rfl
  · rw [completedTake_grant, parent]
  · intro c
    rw [completedTake_grant, parent]
    exact mem_insertIndex
  · intro j hj hjp
    rw [completedTake_grant, grant, if_neg hj, if_neg hjp]; rfl
  · rw [completedTake_grants]; rfl

/-! ## MODIFY -/

theorem CommandRecord.option_eq (r : CommandRecord) (n : Nat) (h : n < 8) :
    r.flags.getLsbD n = r.c0.getLsbD (24 + n) := by
  simp [CommandRecord.flags, h]

theorem CommandRecord.flags_eq_zero (r : CommandRecord) : (r.flags == 0) = decide (r.c0.toNat / 2 ^ 24 = 0) := by
  have : r.flags = 0 ↔ r.c0.toNat / 2 ^ 24 = 0 := by
    have := r.c0.isLt
    rw [BitVec.toNat_eq]
    simp only [CommandRecord.flags, BitVec.extractLsb'_toNat, Nat.shiftRight_eq_div_pow, BitVec.ofNat_eq_ofNat,
      BitVec.toNat_ofNat]
    omega
  rw [beq_eq_decide]
  exact decide_eq_decide.mpr this

theorem CommandRecord.rightsZero_eq (r : CommandRecord) : r.fieldZero .rights = decide (r.rights = ⟨false, false, false⟩) := by
  have bits : ∀ b : BitVec 3, (b == 0) = decide (rightsOfBits b = ⟨false, false, false⟩) := by decide
  exact bits _

/-- Among the flag bytes that check 1 admits, SUSPEND alone is the one that selects none of the other options (R93). -/
theorem suspendOnly_of_flags : ∀ f : BitVec 8, f ≠ 0 → f.getLsbD 6 = false → f.getLsbD 7 = false →
    (f == 0x10) = !(f.getLsbD 0 || f.getLsbD 1 || f.getLsbD 2 || f.getLsbD 3 || f.getLsbD 5) := by
  decide

theorem CommandRecord.setRights_eq (r : CommandRecord) : r.setRights = r.c0.getLsbD (24 + 0) := r.option_eq 0 (by decide)
theorem CommandRecord.setLength_eq (r : CommandRecord) : r.setLength = r.c0.getLsbD (24 + 1) := r.option_eq 1 (by decide)
theorem CommandRecord.setLease_eq (r : CommandRecord) : r.setLease = r.c0.getLsbD (24 + 2) := r.option_eq 2 (by decide)
theorem CommandRecord.setLabel_eq (r : CommandRecord) : r.setLabel = r.c0.getLsbD (24 + 3) := r.option_eq 3 (by decide)
theorem CommandRecord.setSuspend_eq (r : CommandRecord) : r.setSuspend = r.c0.getLsbD (24 + 4) := r.option_eq 4 (by decide)
theorem CommandRecord.setResume_eq (r : CommandRecord) : r.setResume = r.c0.getLsbD (24 + 5) := r.option_eq 5 (by decide)

/-- A value field is checked where its option is selected, and must be 0 where it is not (R90). -/
theorem selected_or_zero (selected bad nonzero : Bool) :
    (if selected then bad else nonzero) = (selected && bad || !selected && nonzero) := by
  cases selected <;> simp

theorem CommandRecord.modifyBad_eq (r : CommandRecord) : r.modifyBad =
    (decide (r.c0.toNat / 2 ^ 24 = 0) || r.c0.getLsbD 30 || r.c0.getLsbD 31 || (r.setSuspend && r.setResume)
      || (r.setRights && decide (r.rights = ⟨false, false, false⟩)) || (!r.setRights && decide (r.rights ≠ ⟨false, false, false⟩))
      || (r.setLength && decide (r.c3.toNat = 0 ∨ 2 ^ 24 < r.c3.toNat)) || (!r.setLength && decide (r.c3 ≠ 0))
      || (r.setLease && decide (1048575 < r.c4.toNat)) || (!r.setLease && decide (r.c4 ≠ 0))
      || (!r.setLabel && decide (r.label ≠ 0))) := by
  unfold CommandRecord.modifyBad
  rw [CommandRecord.flags_eq_zero, r.option_eq 6 (by decide), r.option_eq 7 (by decide), CommandRecord.rightsZero_eq]
  simp only [selected_or_zero, badLength, maxLength, maxLease, CommandRecord.length, CommandRecord.lease, Rights.none,
    CommandRecord.fieldZero, beq_eq_decide, Bool.decide_or, decide_not, Bool.or_assoc, Nat.reducePow, Nat.reduceAdd, ne_eq]
  rfl

/-- Check 2 of MODIFY (R91, R92). -/
theorem modify_notLive_eq (s : State) (r : CommandRecord) (h : Handle) :
    (!s.resolves h || !modifyStateOk r (s.grant (handleSlot h)).state) =
      (decide ((s.grant (handleSlot h)).generation ≠ handleGeneration h ∨
          ¬ ((s.grant (handleSlot h)).state = .live ∨ (s.grant (handleSlot h)).state = .suspended))
        || (r.setSuspend && decide ((s.grant (handleSlot h)).state ≠ .live))
        || (r.setResume && decide ((s.grant (handleSlot h)).state ≠ .suspended))) := by
  unfold State.resolves
  cases (s.grant (handleSlot h)).state <;> simp [modifyStateOk, beq_eq_decide]

/-- The checks of MODIFY in the model's own terms. -/
theorem modifyChecks_eq (s : State) (r : CommandRecord) : modifyChecks s r =
    [(.malformed, r.modifyBad),
     (.notLive, !s.resolves r.handle || !modifyStateOk r (s.grant (handleSlot r.handle)).state),
     (.damaged, ((s.grant (handleSlot r.handle)).damaged || !(s.grant (handleSlot r.handle)).codeMatches)
       && (r.setRights || r.setLength || r.setLease || r.setLabel || r.setResume)),
     (.hasDescendants, !(s.grant (handleSlot r.handle)).children.isEmpty && r.reshapes (s.grant (handleSlot r.handle))),
     (.notSubset, r.setRights && !r.rights.subset (s.grant (handleSlot r.handle)).rights),
     (.badRange, r.setLength && decide ((s.grant (handleSlot r.handle)).length < r.length))] := by
  have reshapes (g : Grant) : (!g.children.isEmpty && r.reshapes g) = (decide (g.children ≠ []) &&
      ((r.setRights && decide (r.rights ≠ g.rights)) || (r.setLength && decide (r.c3.toNat ≠ g.length)))) := by
    cases hc : g.children <;> simp [CommandRecord.reshapes, CommandRecord.length, bne, beq_eq_decide]
  have subset (a b : Rights) : (!a.subset b) = ((a.read && !b.read) || (a.write && !b.write)
      || (a.delegable && !b.delegable)) := by simp [Rights.subset]
  rw [CommandRecord.modifyBad_eq, modify_notLive_eq, reshapes, subset, r.setRights_eq, r.setLength_eq, r.setLease_eq, r.setLabel_eq,
    r.setSuspend_eq, r.setResume_eq]
  rfl

/-- SUSPEND is the one option of a well-formed MODIFY where no other is selected (R93). -/
theorem CommandRecord.suspendOnly_eq {r : CommandRecord} (h : r.modifyBad = false) :
    r.suspendOnly = !(r.setRights || r.setLength || r.setLease || r.setLabel || r.setResume) := by
  simp only [CommandRecord.modifyBad, Bool.or_eq_false_iff, beq_eq_false_iff_ne] at h
  obtain ⟨⟨⟨⟨⟨⟨⟨nonzero, six⟩, seven⟩, -⟩, -⟩, -⟩, -⟩, -⟩ := h
  exact suspendOnly_of_flags r.flags nonzero six seven

/-- How MODIFY answers by its first failing check, with the mismatch that check 3 records (R18, R80, R81, R95). -/
def modifyAnswer (s : State) (r : CommandRecord) : Option Status → Verdict × State
  | some st => (.completes st (if st = .malformed then none else some r.handle) .absent,
      if st = .damaged then integrityRead (handleSlot r.handle) s else s)
  | none => (.completes .ok (some r.handle) .absent, (integrityRead (handleSlot r.handle) s).setGrant (handleSlot r.handle)
      (r.applied ((integrityRead (handleSlot r.handle) s).grant (handleSlot r.handle))))

theorem modifyBody_eq (s : State) (r : CommandRecord) :
    modifyBody r s = modifyAnswer s r (firstFailing (modifyChecks s r)) := by
  unfold modifyBody
  simp only [modifyChecks_eq, firstFailing_answer (modifyAnswer s r), Bool.or_eq_true]
  refine ite_congr rfl (fun _ => rfl) fun good => if_congr Iff.rfl rfl ?_
  have only := CommandRecord.suspendOnly_eq (by simpa using good)
  unfold modifyTarget
  dsimp only
  rw [integrityRead_grant_same, only, Bool.not_not]
  refine ite_congr rfl (fun _ => rfl) fun unharmed => ?_
  rw [Bool.not_eq_true, Bool.and_eq_false_iff] at unharmed
  rcases unharmed with undamaged | suspend
  · have unread := integrityRead_of_undamaged undamaged
    refine if_congr Iff.rfl (by rw [unread]; rfl) (if_congr Iff.rfl (by rw [unread]; rfl) (if_congr Iff.rfl (by rw [unread]; rfl) ?_))
    unfold modifyAnswer
    rw [integrityRead_grant_same]; rfl
  · simp only [Bool.or_eq_false_iff] at suspend
    obtain ⟨⟨⟨⟨rights, length⟩, -⟩, -⟩, -⟩ := suspend
    simp only [CommandRecord.reshapes, rights, length, Bool.false_and, Bool.or_self, Bool.and_false, Bool.false_eq_true, if_false]
    unfold modifyAnswer
    rw [integrityRead_grant_same]; rfl

/-- Settles O33. -/
theorem modifyRefusesInOrder : Obligations.ModifyRefusesInOrder := by
  intro s r rest st ready passes h
  have checks : modifyChecks (s.quiet.takeHead rest) r = modifyChecks s r := rfl
  simp only [exec, execModify]
  rw [take_of_passes ready passes, modifyBody_eq, checks, h, ← endTake_refused_stopping]
  simp only [modifyAnswer, integrityRead_takeHead]
  cases st <;> rfl

/-- Settles O32. -/
theorem modifyAppliesItsOptions : Obligations.ModifyAppliesItsOptions := by
  intro s r rest ready passes h i u opt
  have checks : modifyChecks (s.quiet.takeHead rest) r = modifyChecks s r := rfl
  let t := u.setGrant i (r.applied (u.grant i))
  have applied : modifyAnswer (s.quiet.takeHead rest) r none =
      (.completes .ok (some r.handle) .absent, t.takeHead rest) := by
    simp only [modifyAnswer, integrityRead_takeHead]; rfl
  have grants : (stopProcessor (completedTake t rest (completionOf r .ok (some r.handle) .absent))).grants = t.grants := by
    rw [stopProcessor_grants, completedTake_grants]
  have grant := State.grant_congr grants
  have read : u.grant i = { s.grant i with damaged := (s.grant i).damaged || !(s.grant i).codeMatches } :=
    integrityRead_grant_same i s.quiet
  refine ⟨stopProcessor (completedTake t rest (completionOf r .ok (some r.handle) .absent)), ?_, fun j hj => ?_, ?_, ?_⟩
  · simp only [exec, execModify]
    rw [take_of_passes ready passes, modifyBody_eq, checks, h, applied]
    exact congrArg _ (endTake_completes r .ok (some r.handle) .absent t rest)
  · have kept : (integrityRead i s.quiet).grant j = s.quiet.grant j := by
      rw [integrityRead_grant]; simp [hj]
    rw [grant, State.grant_setGrant_ne _ _ hj]; exact kept
  · rw [grant, State.grant_setGrant_same, read]
    unfold CommandRecord.applied
    rw [r.setRights_eq, r.setLength_eq, r.setLease_eq, r.setLabel_eq, r.setSuspend_eq, r.setResume_eq]
    rfl
  · rw [grants]; rfl

/-! ## QUERY -/

/-- Settles O34. -/
theorem queryReturnsTheRecord : Obligations.QueryReturnsTheRecord := by
  intro s r rest ready passes i g u
  have take := take_of_passes ready passes queryBody
  refine ⟨fun live current => ?_, fun stale => ?_⟩
  · have resolves : (s.quiet.takeHead rest).resolves r.handle = true := State.resolves_iff.mpr ⟨live, current⟩
    have read : (u.takeHead rest).grant i = { g with damaged := g.damaged || !g.codeMatches } := integrityRead_grant_same i s.quiet
    have generation (p : SlotIx) : ((u.takeHead rest).grant p).generation = (s.grant p).generation := by
      show ((integrityRead i s.quiet).grant p).generation = _
      rw [integrityRead_grant]; rfl
    have inFlight : (u.takeHead rest).inFlight i = s.inFlight i := by
      show (integrityRead i s.quiet).inFlight i = _
      rw [integrityRead_frame]; rfl
    simp only [exec, execQuery]
    rw [take]
    simp only [queryBody, resolves, if_true, integrityRead_takeHead]
    rw [endTake_completes]
    simp only [queryResult, Status.halts, Bool.false_eq_true, if_false]
    rw [show handleSlot r.handle = i from rfl, show integrityRead i s.quiet = u from rfl]
    simp only [read, generation, inFlight]
  · have resolves : (s.quiet.takeHead rest).resolves r.handle = false := by
      rw [← Bool.not_eq_true, State.resolves_iff]
      rintro ⟨live, current⟩
      exact stale.elim live (fun c => c current)
    simp only [exec, execQuery]
    rw [take]
    simp only [queryBody, resolves, Bool.false_eq_true, if_false]
    exact congrArg _ (endTake_running .notLive (some r.handle) .absent rest ready.running)

end Sys2Proof.Machine
end

section
/-! Integrity reads and scans (R18, R159, R160), and GRANT_READ (R173, R183). -/

namespace Sys2Proof.Machine

/-! ## The error record -/

theorem ErrorRecord.add_integrity (e : ErrorRecord) (detail : Nat) : e.add .integrity detail = { e with
    integrity := true
    first := some (e.first.getD ⟨.integrity, detail⟩)
    further := e.further || e.first.isSome } := by
  cases h : e.first <;> simp [ErrorRecord.add, h]

/-- Once one INTEGRITY error is on record, each further one sets the further flag and nothing else. -/
theorem foldl_add_integrity {l : List SlotIx} {e : ErrorRecord} {f : FirstError} (flag : e.integrity = true)
    (first : e.first = some f) : l.foldl (fun e i => e.add .integrity i.val) e =
      { e with further := e.further || decide (l ≠ []) } := by
  induction l generalizing e with
  | nil => simp
  | cons i rest ih =>
    rw [List.foldl_cons, ErrorRecord.add_integrity, ih (by rfl) (by simp [first])]
    simp [flag, first]

/-- The run state after INTEGRITY errors (R162). -/
theorem recordError_integrity (d : Nat) (s : State) : recordError .integrity d s = { s with
    errors := s.errors.add .integrity d
    runState := if s.config.integrity = .fatal then .stopped else s.runState } := rfl

/-! ## Scans -/

/-- A slot whose read finds a mismatch (R18). -/
def State.mismatched (s : State) (i : SlotIx) : Bool := !(s.grant i).codeMatches && !(s.grant i).damaged

theorem integrityRead_of_not_mismatched {i : SlotIx} {s : State} (h : s.mismatched i = false) : integrityRead i s = s := by
  refine integrityRead_of_ok ?_
  cases code : (s.grant i).codeMatches with
  | true => exact .inl rfl
  | false => exact .inr (by simpa [State.mismatched, code] using h)

/-- A read of another slot leaves a mismatch to be found. -/
theorem integrityRead_mismatched {i j : SlotIx} (h : j ≠ i) (s : State) : (integrityRead i s).mismatched j = s.mismatched j := by
  unfold State.mismatched; rw [integrityRead_grant]; simp [h]

/-- A scan finds the mismatches alone. -/
theorem foldl_integrityRead_filter {l : List SlotIx} (nodup : l.Nodup) (s : State) :
    l.foldl (fun s i => integrityRead i s) s = (l.filter s.mismatched).foldl (fun s i => integrityRead i s) s := by
  induction l generalizing s with
  | nil => rfl
  | cons i rest ih =>
    obtain ⟨fresh, nodup⟩ := List.nodup_cons.mp nodup
    cases h : s.mismatched i with
    | true =>
      rw [List.filter_cons_of_pos h, List.foldl_cons, List.foldl_cons, ih nodup]
      refine congrArg (List.foldl _ _) (List.filter_congr fun j hj => integrityRead_mismatched ?_ s)
      rintro rfl; exact fresh hj
    | false =>
      rw [List.filter_cons_of_neg (by simp [h]), List.foldl_cons, integrityRead_of_not_mismatched h, ih nodup]

/-- The errors of mismatches found in turn, and the run state they leave. -/
theorem foldl_integrityRead_frame {l : List SlotIx} (nodup : l.Nodup) {s : State} (h : ∀ i ∈ l, s.mismatched i = true) :
    l.foldl (fun s i => integrityRead i s) s = { s with
      grants := (l.foldl (fun s i => integrityRead i s) s).grants
      errors := l.foldl (fun e i => e.add .integrity i.val) s.errors
      runState := if l ≠ [] ∧ s.config.integrity = .fatal then .stopped else s.runState } := by
  induction l generalizing s with
  | nil => simp
  | cons i rest ih =>
    obtain ⟨fresh, nodup⟩ := List.nodup_cons.mp nodup
    have found := h i (by simp)
    simp only [State.mismatched, Bool.and_eq_true, Bool.not_eq_true'] at found
    have rest_found : ∀ j ∈ rest, (integrityRead i s).mismatched j = true := fun j hj => by
      rw [integrityRead_mismatched (by rintro rfl; exact fresh hj)]; exact h j (by simp [hj])
    rw [List.foldl_cons, List.foldl_cons, ih nodup rest_found, integrityRead_of_mismatch found.1 found.2,
      recordError_integrity]
    by_cases fatal : s.config.integrity = .fatal <;> simp [fatal, State.setGrant]

/-- The listed slots that satisfy a condition that FREE slots never meet, out of all slots. -/
theorem State.slots_filter {s : State} (wf : s.grants.wf = true) {p : SlotIx → Bool}
    (used : ∀ i, p i = true → (s.grant i).state ≠ .free) : s.slots.filter p = (List.finRange 1024).filter p := by
  refine List.Perm.eq_of_pairwise (le := (· < ·)) (fun a b _ _ h1 h2 => absurd (lt_trans h1 h2) (lt_irrefl _))
    ((State.slots_pairwise wf).filter _) ((List.pairwise_lt_finRange 1024).filter _) ?_
  rw [List.perm_ext_iff_of_nodup (((State.slots_pairwise wf).filter _).imp ne_of_lt) ((List.nodup_finRange _).filter _)]
  intro j
  rw [List.mem_filter, List.mem_filter]
  exact ⟨fun h => ⟨List.mem_finRange j, h.2⟩, fun h => ⟨State.mem_slots (used j h.2), h.2⟩⟩

/-- The table's non-FREE slots of a kind, out of all slots. -/
theorem State.nonFree_filter {s : State} (wf : s.grants.wf = true) (p : SlotIx → Bool) :
    s.nonFree.filter p = (List.finRange 1024).filter fun i => decide ((s.grant i).state ≠ .free) && p i := by
  rw [← State.slots_filter wf fun i h => of_decide_eq_true (Bool.and_eq_true_iff.mp h).1]
  unfold State.nonFree
  rw [List.filter_filter]
  simp only [Bool.and_comm]

/-- Settles O45. -/
theorem integrityReadsRecordOnce : Obligations.IntegrityReadsRecordOnce := by
  refine ⟨fun s i => ⟨integrityRead_of_ok, fun code flag => ⟨_, rfl, fun j => ?_, ?_⟩, ?_⟩, ?_⟩
  · rw [integrityRead_grant]
    by_cases h : j = i
    · subst h; simp [code]
    · simp [h]
  · rw [integrityRead_of_mismatch code flag, recordError_integrity, ErrorRecord.add_integrity]; rfl
  · refine integrityRead_of_ok ?_
    rw [integrityRead_grant_same]
    cases (s.grant i).codeMatches <;> simp
  · intro s wf mismatched
    have found : s.nonFree.filter s.mismatched = mismatched := by
      rw [State.nonFree_filter wf]
      refine List.filter_congr fun j _ => ?_
      simp only [State.mismatched, Bool.decide_and, Bool.decide_eq_false]
    have scan : integrityScan s = mismatched.foldl (fun s i => integrityRead i s) s := by
      rw [← found]; exact foldl_integrityRead_filter ((State.nonFree_pairwise wf).imp ne_of_lt) s
    refine ⟨fun none => by rw [scan, none]; rfl, fun lowest later order => ⟨_, rfl, fun j => ?_, ?_⟩⟩
    · rw [integrityScan_grant]
      by_cases h : j ∈ mismatched
      · rw [if_pos h]
        simp only [mismatched, List.mem_filter, decide_eq_true_eq] at h
        simp [h.2]
      · rw [if_neg h]
        simp only [mismatched, List.mem_filter, decide_eq_true_eq, List.mem_finRange, true_and] at h
        have : ((s.grant j).damaged || (decide ((s.grant j).state ≠ .free) && !(s.grant j).codeMatches)) = (s.grant j).damaged := by
          by_cases hs : (s.grant j).state = .free <;> cases hc : (s.grant j).codeMatches <;> simp_all
        rw [this]
    · have nodup : mismatched.Nodup := (List.nodup_finRange _).filter _
      have all : ∀ i ∈ mismatched, s.mismatched i = true := fun i hi => by
        rw [← found] at hi; exact (List.mem_filter.mp hi).2
      have errors : mismatched.foldl (fun e i => e.add .integrity i.val) s.errors = { s.errors with
          integrity := true
          first := some (s.errors.first.getD ⟨.integrity, lowest.val⟩)
          further := s.errors.further || s.errors.first.isSome || decide (later ≠ []) } := by
        rw [order, List.foldl_cons, ErrorRecord.add_integrity, foldl_add_integrity rfl rfl]
      have some_found : mismatched ≠ [] := by rw [order]; exact List.cons_ne_nil _ _
      rw [scan, foldl_integrityRead_frame nodup all, errors]
      simp [some_found]

/-! ## GRANT_READ -/

/-- Byte 0 of a slot record: state and generation (R183). -/
theorem grantByte0 (g : Grant) : packByte [⟨6, 2, grantCode g.state⟩, ⟨0, 6, g.generation.toNat⟩] =
    BitVec.ofNat 8 (64 * grantCode g.state + g.generation.toNat) := by
  have h1 : grantCode g.state < 4 := by cases g.state <;> decide
  have h2 := g.generation.isLt
  simp only [packByte, packNat]
  congr 1
  omega

/-- Byte 1 of a slot record: grantee and rights (R183). -/
theorem grantByte1 (g : Grant) : packByte [⟨4, 4, g.grantee.val⟩, ⟨0, 3, rightsBits g.rights⟩] =
    BitVec.ofNat 8 (16 * g.grantee.val + g.rights.read.toNat + 2 * g.rights.write.toNat + 4 * g.rights.delegable.toNat) := by
  have h1 := g.grantee.isLt
  have h2 := Bool.toNat_lt g.rights.read
  have h3 := Bool.toNat_lt g.rights.write
  have h4 := Bool.toNat_lt g.rights.delegable
  simp only [packByte, packNat, rightsBits]
  congr 1
  omega

/-- Byte 2 of a slot record: depth and flags (R183). -/
theorem grantByte2 (g : Grant) : packByte [⟨0, 2, g.depth⟩, ⟨2, 1, g.damaged.toNat⟩, ⟨3, 1, g.noticeOwed.isSome.toNat⟩,
      ⟨4, 1, g.parent.isSome.toNat⟩, ⟨5, 1, g.lease.isSome.toNat⟩] =
    BitVec.ofNat 8 (g.depth % 4 + 4 * g.damaged.toNat + 8 * g.noticeOwed.isSome.toNat + 16 * g.parent.isSome.toNat
      + 32 * g.lease.isSome.toNat) := by
  have h1 := Bool.toNat_lt g.damaged
  have h2 := Bool.toNat_lt g.noticeOwed.isSome
  have h3 := Bool.toNat_lt g.parent.isSome
  have h4 := Bool.toNat_lt g.lease.isSome
  simp only [packByte, packNat]
  congr 1
  omega

theorem slotOfBytes_none {hi lo : Byte} (h : 1024 ≤ hi.toNat * 256 + lo.toNat) : slotOfBytes hi lo = none := by
  unfold slotOfBytes; rw [dif_neg (by omega)]

theorem slotOfBytes_some {hi lo : Byte} {i : SlotIx} (h : hi.toNat * 256 + lo.toNat = i.val) : slotOfBytes hi lo = some i := by
  unfold slotOfBytes
  rw [dif_pos (by have := i.isLt; omega)]
  exact congrArg some (Fin.ext h)

/-- GRANT_READ at its completing byte is the judgement of its frame (R168, R169). -/
theorem execGrantRead_eq {s : State} {hi lo : Byte} (running : s.inReset = false) (frame : s.service.frame = .command)
    (received : s.service.received = [0x04, hi]) : exec (.grantRead lo) s = .next (judgeGrantRead hi lo s.quiet) := by
  have high : grantReadHigh s.quiet = some hi := by
    simp [grantReadHigh, frame, received]
  simp only [exec, execGrantRead, happening_of_running running, grantRead, high]

/-- The bytes of a slot record (R183). -/
theorem grantBytes_eq (s : State) (i : SlotIx) :
    let g := s.grant i
    let byte (n : Nat) : Byte := BitVec.ofNat 8 n
    grantBytes s i = [byte (64 * grantCode g.state + g.generation.toNat),
      byte (16 * g.grantee.val + g.rights.read.toNat + 2 * g.rights.write.toNat + 4 * g.rights.delegable.toNat),
      byte (g.depth % 4 + 4 * g.damaged.toNat + 8 * g.noticeOwed.isSome.toNat + 16 * g.parent.isSome.toNat
        + 32 * g.lease.isSome.toNat),
      byte (g.base.toNat / 2 ^ 24), byte (g.base.toNat / 2 ^ 16), byte (g.base.toNat / 2 ^ 8), byte g.base.toNat,
      byte (g.length / 2 ^ 24), byte (g.length / 2 ^ 16), byte (g.length / 2 ^ 8), byte g.length,
      byte (g.ownerLabel.toNat / 256), byte g.ownerLabel.toNat,
      byte ((g.parent.map Fin.val).getD 0 / 256), byte ((g.parent.map Fin.val).getD 0),
      byte (g.lease.getD 0 / 2 ^ 16), byte (g.lease.getD 0 / 256), byte (g.lease.getD 0),
      byte (s.inFlight i), byte (g.children.length / 256), byte g.children.length]
      ++ g.children.flatMap fun c => [byte (c.val / 256), byte c.val] := by
  intro g byte
  unfold grantBytes
  dsimp only
  rw [grantByte0, grantByte1, grantByte2]
  simp only [beBytes, List.cons_append, List.nil_append, Nat.reducePow, Nat.div_one]
  rfl

@[simp] theorem grantBytes_quiet (s : State) (i : SlotIx) : grantBytes s.quiet i = grantBytes s i := rfl

/-- Settles O42. -/
theorem grantReadReportsTheSlot : Obligations.GrantReadReportsTheSlot := by
  intro s hi lo running frame received index byte answered
  have judged := execGrantRead_eq (lo := lo) running frame received
  refine ⟨fun outside => ?_, fun i inside => ⟨fun frozen => ?_, fun unfrozen => ?_⟩⟩
  · rw [judged]
    unfold judgeGrantRead
    rw [slotOfBytes_none outside]; rfl
  · rw [judged]
    unfold judgeGrantRead
    rw [slotOfBytes_some inside]
    simp only [State.quiet_freezeLevel, frozen]
    rfl
  · have level : s.quiet.freezeLevel.val ≠ 2 := fun c => unfrozen (Fin.ext c)
    have read : grantReadCheck i s.quiet = (if (s.grant i).state = .free then s else integrityRead i s).quiet := by
      unfold grantReadCheck
      have same : s.quiet.grant i = s.grant i := rfl
      rw [same]
      split
      · rfl
      · unfold integrityRead; rw [same]; split <;> rfl
    have inFlight : (if (s.grant i).state = .free then s else integrityRead i s).inFlight i = s.inFlight i := by
      split
      · rfl
      · rw [integrityRead_frame]; rfl
    rw [judged]
    unfold judgeGrantRead
    rw [slotOfBytes_some inside]
    simp only [if_neg level]
    rw [read, grantBytes_quiet, grantBytes_eq, inFlight]
    generalize (if (s.grant i).state = .free then s else integrityRead i s) = u
    rfl

end Sys2Proof.Machine
end

section
/-! Requests that fail (R29–R37), and memory completions (R47, R48). -/

namespace Sys2Proof.Machine

/-! ## The eleven checks -/

/-- Where another fault is found, the check before it passed. -/
theorem firstFailing_passed {α : Type} {x f : α} {b : Bool} {l : List (α × Bool)} (h : firstFailing ((x, b) :: l) = some f)
    (other : f ≠ x) : b = false ∧ firstFailing l = some f := by
  rw [firstFailing_cons] at h
  cases b with
  | true => exact absurd (Option.some.inj h).symm other
  | false => exact ⟨rfl, h⟩

/-- The fault found and the state after the read of check 6, which changes nothing unless check 6 fails (R29). -/
def accessAnswer (i : SlotIx) (s : State) : Option FaultKind → Option FaultKind × State
  | some .damaged => (some .damaged, integrityRead i s)
  | f => (f, s)

theorem accessAnswer_of_ne {i : SlotIx} {s : State} {f : FaultKind} (h : f ≠ .damaged) :
    accessAnswer i s (some f) = (some f, s) := by
  cases f with
  | damaged => exact absurd rfl h
  | _ => rfl

/-- Check 3 (R31). -/
theorem badRequest_iff (q : Request) : (q.length.toNat = 0 ∨ 4096 < q.length.toNat ∨ (q.kind ≠ .read ∧ q.kind ≠ .write)) ↔
    (decide (q.length = 0) || decide (4096 < q.length.toNat) || decide (q.kind = .invalid2)
      || decide (q.kind = .invalid3)) = true := by
  have zero : q.length.toNat = 0 ↔ q.length = 0 := by rw [← BitVec.toNat_inj]; rfl
  rw [zero]
  cases q.kind <;> simp

/-- Check 5 (R33). -/
theorem stale_iff (s : State) (h : Handle) : (!s.resolves h) = true ↔
    decide ((s.grant (handleSlot h)).state = .free ∨ (s.grant (handleSlot h)).generation ≠ handleGeneration h) = true := by
  rw [Bool.not_eq_true', ← Bool.not_eq_true, State.resolves_iff, decide_eq_true_eq]
  tauto

/-- Checks 7 to 11 (R33–R35). -/
theorem checksFromDamaged_undamaged {a : AgentIx} {q : Request} {s : State}
    (undamaged : (s.grant (handleSlot q.handle)).damaged = false) :
    (checksFromDamaged s a q, s) = accessAnswer (handleSlot q.handle) s (firstFailing ((elevenChecks s a q).drop 6)) := by
  simp only [elevenChecks, List.drop, firstFailing_answer (accessAnswer (handleSlot q.handle) s)]
  unfold checksFromDamaged
  simp only [undamaged, Bool.false_eq_true, if_false, apply_ite (Prod.mk · s), decide_eq_true_eq, Bool.or_eq_true]
  refine if_congr Iff.rfl rfl (if_congr Iff.rfl rfl (if_congr Iff.rfl rfl (if_congr ?_ rfl rfl)))
  cases q.kind <;> rfl

theorem elim_ite_some {α β : Type} (c : Prop) [Decidable c] (x : α) (o : Option α) (b : β) (f : α → β) :
    (if c then some x else o).elim b f = if c then f x else o.elim b f := by
  split <;> rfl

theorem accessCheck_eq (a : AgentIx) (q : Request) (s : State) :
    accessCheck a q s = accessAnswer (handleSlot q.handle) s (firstFailing (elevenChecks s a q)) := by
  have read : accessCheck a q s = (checksToStale s a q).elim
      (checksFromDamaged (integrityRead (handleSlot q.handle) s) a q, integrityRead (handleSlot q.handle) s)
      (fun f => (some f, s)) := by
    unfold accessCheck
    cases checksToStale s a q <;> rfl
  rw [read]
  simp only [elevenChecks, firstFailing_answer (accessAnswer (handleSlot q.handle) s)]
  unfold checksToStale
  simp only [elim_ite_some, Option.elim_none, badRequest_iff, stale_iff]
  refine if_congr (by simp) rfl (if_congr (by simp [State.admitted]) rfl (if_congr Iff.rfl rfl (if_congr ?_ rfl
    (if_congr Iff.rfl rfl ?_))))
  · simp [tagInFlight, beq_eq_decide, Bool.and_assoc]
  · cases harmed : (s.grant (handleSlot q.handle)).damaged || !(s.grant (handleSlot q.handle)).codeMatches with
    | true =>
      have found : ((integrityRead (handleSlot q.handle) s).grant (handleSlot q.handle)).damaged = true := by
        rw [integrityRead_grant_same]; exact harmed
      simp only [checksFromDamaged, found, if_true]
      rfl
    | false =>
      obtain ⟨undamaged, code⟩ := Bool.or_eq_false_iff.mp harmed
      rw [integrityRead_of_ok (.inl (by simpa using code))]
      rw [if_neg Bool.false_ne_true, checksFromDamaged_undamaged undamaged]
      simp only [elevenChecks, List.drop, firstFailing_answer (accessAnswer (handleSlot q.handle) s)]

/-! ## Failing requests -/

/-- What the checks before the one that fails found of the device and the requester (R30). -/
theorem failing_passed {s : State} {a : AgentIx} {q : Request} {f : FaultKind} (h : firstFailing (elevenChecks s a q) = some f)
    (stopped : f ≠ .stopped) : s.runState = .running ∧ (f ≠ .agentBlocked → s.agents[a].state = .active) := by
  obtain ⟨run, h⟩ := firstFailing_passed h stopped
  refine ⟨?_, fun blocked => ?_⟩
  · cases state : s.runState with
    | running => rfl
    | stopped => rw [state] at run; exact absurd run (by decide)
  · obtain ⟨admitted, -⟩ := firstFailing_passed h blocked
    simpa using (Bool.or_eq_false_iff.mp admitted).1

/-- A request found damaged on a slot without the flag met a mismatch (R18). -/
theorem failing_damaged {s : State} {a : AgentIx} {q : Request} (h : firstFailing (elevenChecks s a q) = some .damaged)
    (undamaged : (s.grant (handleSlot q.handle)).damaged = false) : (s.grant (handleSlot q.handle)).codeMatches = false := by
  have fails := firstFailing_mem h
  simpa [elevenChecks, undamaged] using fails

theorem FaultKind.stored_eq_true {f : FaultKind} (stopped : f ≠ .stopped) (blocked : f ≠ .agentBlocked) : f.stored = true := by
  cases f with
  | stopped => exact absurd rfl stopped
  | agentBlocked => exact absurd rfl blocked
  | _ => rfl

/-- The fault slot a failing request leaves (R37, R142). -/
def faultSlotAfter (f : FaultKind) (q : Request) : Option HeldFault → HeldFault
  | none => { kind := f, handle := q.handle, offset := q.offset, length := q.length.toNat, accessKind := q.kind,
              tag := q.tag, more := false }
  | some held => { held with more := true }

/-- A fault answered and stored for an ACTIVE agent (R37, R138). -/
theorem faultAccess_stored {a : AgentIx} {q : Request} {f : FaultKind} {s : State} (stored : f.stored = true)
    (active : s.agents[a].state = .active) : faultAccess a q f s = { s with
      out := { s.out with responses := s.out.responses ++ [{ lane := a, tag := q.tag, outcome := .fault f }] }
      faultSlots := s.faultSlots.set a (some (faultSlotAfter f q s.faultSlots[a]))
      agents := if s.agents[a].autoQuarantine then s.agents.set a { s.agents[a] with state := .quarantined }
        else s.agents } := by
  have slot : offered (faultOfRequest f q) s.faultSlots[a] = some (faultSlotAfter f q s.faultSlots[a]) := by
    cases s.faultSlots[a] <;> rfl
  have answered : ∀ t : State, t.agents = s.agents → t.faultSlots = s.faultSlots →
      offerFault a (faultOfRequest f q) t = { t with
        faultSlots := s.faultSlots.set a (some (faultSlotAfter f q s.faultSlots[a]))
        agents := if s.agents[a].autoQuarantine then s.agents.set a { s.agents[a] with state := .quarantined }
          else s.agents } := by
    intro t agents slots
    rw [offerFault_eq, agents, slots, slot]
    simp only [active, and_true]
  unfold faultAccess
  rw [if_pos stored]
  exact answered _ rfl rfl

/-- The state in which the request of a lane is checked: the lane is EMPTY and the pointer is on it (R28). -/
def State.taking (s : State) (a : AgentIx) : State := { s.setLane a none with lanePointer := a }

/-- A take that fails (R28, R37). -/
theorem takeLane_of_fails {a : AgentIx} {q : Request} {f : FaultKind} {s : State}
    (fails : firstFailing (elevenChecks s a q) = some f) : takeLane a q s =
      stopProcessor (faultAccess a q f (accessAnswer (handleSlot q.handle) (s.taking a) (some f)).2) := by
  have check : accessCheck a q (s.taking a) = accessAnswer (handleSlot q.handle) (s.taking a) (some f) := by
    rw [accessCheck_eq, show elevenChecks (s.taking a) a q = elevenChecks s a q from rfl, fails]
  have found : (accessAnswer (handleSlot q.handle) (s.taking a) (some f)).1 = some f := by
    cases f <;> rfl
  unfold takeLane
  dsimp only
  rw [show ({ s.setLane a none with lanePointer := a } : State) = s.taking a from rfl, check]
  cases answer : accessAnswer (handleSlot q.handle) (s.taking a) (some f) with
  | mk fault u =>
    rw [answer] at found
    obtain rfl : fault = some f := found
    rfl

/-- Settles O10. -/
theorem failingTakeFaults : Obligations.FailingTakeFaults := by
  intro s a q f next fails taken slot stored g
  have slot_eq : slot = faultSlotAfter f q s.faultSlots[a] := by
    unfold slot
    cases s.faultSlots[a] <;> rfl
  rw [execAccessTake_eq next, takeLane_of_fails (s := s.quiet) fails]
  refine congrArg _ ?_
  by_cases stopped : f = .stopped
  · rw [if_pos stopped]
    subst stopped
    rfl
  obtain ⟨running, active⟩ := failing_passed fails stopped
  by_cases blocked : f = .agentBlocked
  · rw [if_neg stopped, if_pos blocked]
    subst blocked
    exact stopProcessor_running running
  have kept : f.stored = true := FaultKind.stored_eq_true stopped blocked
  have recorded (u : State) (agents : u.agents = s.agents) :=
    faultAccess_stored (q := q) (s := u) kept (by rw [agents]; exact active blocked)
  have plain : faultAccess a q f (s.quiet.taking a) = stored := by
    rw [recorded (s.quiet.taking a) rfl]
    unfold stored
    rw [slot_eq]
    rfl
  rw [if_neg stopped, if_neg blocked]
  by_cases damaged : f = .damaged
  · subst damaged
    cases flag : g.damaged with
    | true =>
      have unread : integrityRead (handleSlot q.handle) (s.quiet.taking a) = s.quiet.taking a := integrityRead_of_ok (.inr flag)
      simp only [accessAnswer, unread, plain, and_false, Bool.true_eq_false, if_false]
      exact stopProcessor_running running
    | false =>
      have read : integrityRead (handleSlot q.handle) (s.quiet.taking a) = recordError .integrity (handleSlot q.handle).val
          ((s.quiet.taking a).setGrant (handleSlot q.handle) { g with damaged := true }) :=
        integrityRead_of_mismatch (failing_damaged fails flag) flag
      simp only [accessAnswer, read, and_self, if_true]
      refine congrArg stopProcessor ?_
      rw [← plain, recorded (s.quiet.taking a) rfl]
      exact recorded _ rfl
  · rw [if_neg fun c => damaged c.1, accessAnswer_of_ne damaged, plain]
    exact stopProcessor_running running

/-! ## Memory completions -/

/-- The entry leaves the tracker as its requester is answered; under a DRAINING grant the freeing rule follows (R47). -/
theorem exec_memoryCompletion_issued {s : State} {k : EntryIx} (running : s.inReset = false)
    (issued : s.tracker[k].state = .issued) (status : MemStatus) (data : List Byte) :
    exec (.memoryCompletion k status data) s = .next (
      let ended := (answered s.tracker[k] status data s.quiet).setEntry k Entry.emptied
      if (s.grant s.tracker[k].grant).state = .draining then settle ended else ended) := by
  obtain ⟨grants, -⟩ := answered_grants s.tracker[k] status data s.quiet
  have same : ((answered s.tracker[k] status data s.quiet).setEntry k Entry.emptied).grant = s.grant :=
    State.grant_congr grants
  simp only [exec, execMemoryCompletion, happening_of_running running]
  unfold memoryCompletion
  rw [show s.quiet.tracker[k] = s.tracker[k] from rfl]
  simp only [issued]
  rw [completeIssued_eq, settleIfDraining, same]

/-- Read data of the entry's length is delivered as it stands (R47). -/
theorem readBytes_of_length {n : Nat} {data : List Byte} (h : n = data.length) (draws : Nat) :
    readBytes n draws data = data := by
  subst h
  simp [readBytes]

theorem answerOk_read {e : Entry} {data : List Byte} (read : e.kind = .read) (length : e.length = data.length) (s : State) :
    answerOk e data s = s.respond { lane := e.agent, tag := e.tag, outcome := .ok (some data) } := by
  unfold answerOk
  rw [read, readBytes_of_length length, length, Nat.sub_self]
  rfl

theorem answerOk_write {e : Entry} (write : e.kind = .write) (data : List Byte) (s : State) :
    answerOk e data s = s.respond { lane := e.agent, tag := e.tag, outcome := .ok none } := by
  unfold answerOk
  rw [write]

/-- The fault slot a failed access leaves, where its offset is a value of the field (R48, R142). -/
theorem offered_memoryFault {e : Entry} {s : State} (h : offsetRepresentable e (s.grant e.grant).base = true)
    (slot : Option HeldFault) : offered (memoryFault e s) slot = some (match slot with
      | none => {
          kind := .memory
          handle := mkHandle e.grant (s.grant e.grant).generation
          offset := BitVec.ofNat 32 (e.address.toNat - (s.grant e.grant).base.toNat * 256)
          length := e.length
          accessKind := match e.kind with
            | .read => .read
            | .write => .write
          tag := e.tag
          more := false }
      | some held => { held with more := true }) := by
  cases slot with
  | none =>
    unfold offered memoryFault memoryFaultOffset
    rw [if_pos h]
    cases e.kind <;> rfl
  | some held => rfl

/-- Settles O11. -/
theorem completionAnswersTheIssuedEntry : Obligations.CompletionAnswersTheIssuedEntry := by
  intro s k data running issued e emptied offset ended
  have completes := exec_memoryCompletion_issued running issued
  refine ⟨fun read length => ?_, fun write => ?_, fun above below => ?_⟩
  · rw [completes .ok]
    unfold answered
    rw [answerOk_read read length]
    rfl
  · rw [completes .ok]
    unfold answered
    rw [answerOk_write write]
    rfl
  · have representable : offsetRepresentable e (s.grant e.grant).base = true := by
      have short : e.address.toNat - (s.grant e.grant).base.toNat * 256 < 2 ^ 32 := below
      have above : (s.grant e.grant).base.toNat * 256 ≤ e.address.toNat := above
      refine Bool.and_eq_true_iff.mpr ⟨decide_eq_true above, decide_eq_true ?_⟩
      unfold granules
      omega
    have fault := offered_memoryFault representable s.faultSlots[e.agent]
    have represented : offsetRepresentable s.tracker[k] (s.quiet.grant s.tracker[k].grant).base = true := representable
    rw [completes .error]
    unfold answered answerError
    rw [if_pos represented, offerFault_eq]
    exact congrArg (fun slot => Host.Outcome.next (ended { emptied with
      out := ⟨[{ lane := e.agent, tag := e.tag, outcome := .memoryError }], [], none⟩
      faultSlots := s.faultSlots.set e.agent slot
      agents := if s.agents[e.agent].autoQuarantine = true ∧ s.agents[e.agent].state = .active
        then s.agents.set e.agent { s.agents[e.agent] with state := .quarantined } else s.agents })) fault

end Sys2Proof.Machine
end

section
/-! The completion of retire operations, taken together (R109–R111). -/

namespace Sys2Proof.Machine

/-! ## The take test -/

/-- The processor states in which the take test is made (R67). -/
def ProcState.tested : ProcState → Bool
  | .idle | .waitingSpace | .waitingRetire => true
  | .barrierWait | .purging | .halted | .discarding | .stopped => false

theorem takeTest_tested {s : State} (h : s.processor.state.tested = true) : takeTest s = s.setProc (takeTestState s) := by
  unfold takeTest
  cases state : s.processor.state <;> simp_all [ProcState.tested]

theorem takeTest_untested {s : State} (h : s.processor.state.tested = false) : takeTest s = s := by
  unfold takeTest
  cases state : s.processor.state <;> simp_all [ProcState.tested]

@[simp] theorem takeTestState_tested (s : State) : (takeTestState s).tested = true := by
  unfold takeTestState
  split
  · rfl
  · split
    · rfl
    · split <;> rfl

theorem ProcState.ne_purging_of_tested {p : ProcState} (h : p.tested = true) : p ≠ .purging := by
  rintro rfl; exact absurd h (by decide)

/-- The test replaces what an earlier test found. -/
theorem takeTest_setProc {s : State} {p : ProcState} (hs : s.processor.state.tested = true) (hp : p.tested = true) :
    takeTest (s.setProc p) = takeTest s := by
  rw [takeTest_tested hs, takeTest_tested (s := s.setProc p) hp]
  rfl

theorem takeTest_takeTest (s : State) : takeTest (takeTest s) = takeTest s := by
  cases h : s.processor.state.tested with
  | true => rw [takeTest_tested h, takeTest_setProc h (takeTestState_tested s), takeTest_tested h]
  | false => rw [takeTest_untested h, takeTest_untested h]

/-! ## Operations with an empty member set -/

/-- The operation of a slot that is done, if its member set is empty. -/
def State.doneIn (s : State) (k : RetireIx) : Option RetireOp := s.retire[k].filter fun op => decide (op.members = [])

/-- The operations of the given slots whose member sets are empty, in the order given. -/
def State.doneAmong (s : State) (l : List RetireIx) : List RetireOp := l.filterMap s.doneIn

/-- The operations of the given slots that are done, completed together, but for the take test: PURGING ends with the
completion of a PURGE (R76, R109). -/
def retiredAmong (l : List RetireIx) (s : State) : State :=
  { retired s (s.doneAmong l) with
    retire := Vector.ofFn fun k => if k ∈ l then s.retire[k].filter fun op => decide (op.members ≠ []) else s.retire[k]
    processor := if (∃ op ∈ s.doneAmong l, op.kind = .purge) ∧ s.processor.state = .purging
      then { s.processor with state := .idle } else s.processor }

theorem State.emptied_eq (s : State) : s.emptied = s.doneAmong (allBelow 8) := by
  unfold State.emptied State.doneAmong
  rw [vector_toList_eq_map, List.filterMap_map, allBelow_eq_finRange]
  rfl

theorem State.doneIn_eq_none {s : State} {k : RetireIx} (h : s.doneIn k = none) :
    s.retire[k].filter (fun op => decide (op.members ≠ [])) = s.retire[k] := by
  unfold State.doneIn at h
  cases slot : s.retire[k] with
  | none => rfl
  | some op =>
    rw [slot] at h
    by_cases empty : op.members = [] <;> simp_all [Option.filter]

theorem State.doneIn_eq_some {s : State} {k : RetireIx} {op : RetireOp} :
    s.doneIn k = some op ↔ s.retire[k] = some op ∧ op.members = [] := by
  unfold State.doneIn
  rw [Option.filter_eq_some_iff, decide_eq_true_eq]

theorem RetireOp.completion_eq (op : RetireOp) : ResponseRecord.completion op.completion = operationCompletion op := by
  unfold RetireOp.completion operationCompletion
  cases op.kind <;> rfl

theorem retiredAmong_single {s : State} {k : RetireIx} {op : RetireOp} (done : s.doneIn k = some op) : retiredAmong [k] s =
    { ((if op.kind = .purge then purgeEffects s else s).postReserved op.completion).setRetire k none with
      processor := if op.kind = .purge ∧ s.processor.state = .purging then { s.processor with state := .idle }
        else s.processor } := by
  obtain ⟨slot, empty⟩ := State.doneIn_eq_some.mp done
  have one : s.doneAmong [k] = [op] := by simp [State.doneAmong, done]
  have slots : (Vector.ofFn fun j : RetireIx => if j ∈ [k] then s.retire[j].filter fun op => decide (op.members ≠ [])
      else s.retire[j]) = s.retire.set k none := by
    ext1 j hj
    rw [Vector.getElem_ofFn, Vector.getElem_set]
    by_cases same : (⟨j, hj⟩ : RetireIx) = k
    · subst same
      simp only [List.mem_singleton, if_true]
      rw [slot]
      simp [empty]
    · rw [if_neg (by simpa using same), if_neg fun c => same (Fin.ext c.symm)]
      rfl
  unfold retiredAmong retired
  rw [one, slots]
  simp only [List.any_cons, List.any_nil, Bool.or_false, decide_eq_true_eq, List.map_cons, List.map_nil, List.length_singleton,
    List.mem_singleton, exists_eq_left, ← RetireOp.completion_eq]
  by_cases purge : op.kind = .purge <;> simp only [purge, if_true, if_false] <;> rfl

/-- The completion of a done operation is the take test after the rest of it. -/
theorem completeIfEmpty_eq (s : State) (k : RetireIx) : completeIfEmpty s k =
    if s.doneAmong [k] = [] then s else takeTest (retiredAmong [k] s) := by
  cases done : s.doneIn k with
  | none =>
    have nonempty : ∀ op, s.retire[k] = some op → op.members ≠ [] := fun op slot empty => by
      rw [State.doneIn_eq_some.mpr ⟨slot, empty⟩] at done
      exact absurd done (by simp)
    rw [completeIfEmpty_of_nonempty nonempty, if_pos (by simp [State.doneAmong, done])]
  | some op =>
    obtain ⟨slot, empty⟩ := State.doneIn_eq_some.mp done
    rw [if_neg (by simp [State.doneAmong, done]), retiredAmong_single done]
    unfold completeIfEmpty completeRetire processorAfterRetire
    rw [slot]
    simp only [empty, List.isEmpty_nil, if_true]
    have processor : (((if op.kind = .purge then purgeEffects s else s).postReserved op.completion).setRetire k none).processor
        = s.processor := by
      split <;> rfl
    rw [processor]
    split
    · unfold State.setProc
      rw [processor]
    · rw [← processor]

/-! ## Operations completed in turn -/

theorem retiredAmong_retire (l : List RetireIx) (s : State) (k : RetireIx) : (retiredAmong l s).retire[k] =
    if k ∈ l then s.retire[k].filter fun op => decide (op.members ≠ []) else s.retire[k] := by
  unfold retiredAmong
  simp

theorem State.doneAmong_congr {s t : State} {l : List RetireIx} (h : ∀ k ∈ l, t.retire[k] = s.retire[k]) :
    t.doneAmong l = s.doneAmong l :=
  List.filterMap_congr fun k hk => by unfold State.doneIn; rw [h k hk]

theorem State.doneAmong_cons (s : State) (k : RetireIx) (l : List RetireIx) :
    s.doneAmong (k :: l) = s.doneAmong [k] ++ s.doneAmong l := by
  rw [← List.singleton_append]
  exact List.filterMap_append

theorem retiredAmong_of_none {l : List RetireIx} {s : State} (h : s.doneAmong l = []) : retiredAmong l s = s := by
  have slots : (Vector.ofFn fun j : RetireIx => if j ∈ l then s.retire[j].filter fun op => decide (op.members ≠ [])
      else s.retire[j]) = s.retire := by
    ext1 j hj
    rw [Vector.getElem_ofFn]
    split
    · next mem => exact State.doneIn_eq_none (List.filterMap_eq_nil_iff.mp h _ mem)
    · rfl
  unfold retiredAmong retired
  rw [h, slots]
  simp

theorem retiredAmong_doneAmong {k : RetireIx} {l : List RetireIx} (fresh : k ∉ l) (s : State) :
    (retiredAmong [k] s).doneAmong l = s.doneAmong l :=
  State.doneAmong_congr fun j hj => by
    rw [retiredAmong_retire, if_neg]
    intro mem
    exact fresh (List.mem_singleton.mp mem ▸ hj)

/-- Completing first one slot's operation and then the others' completes them all. -/
theorem retiredAmong_cons {k : RetireIx} {l : List RetireIx} (fresh : k ∉ l) (s : State) :
    retiredAmong l (retiredAmong [k] s) = retiredAmong (k :: l) s := by
  have later := retiredAmong_doneAmong fresh s
  have slots : (Vector.ofFn fun j : RetireIx => if j ∈ l
        then (retiredAmong [k] s).retire[j].filter fun op => decide (op.members ≠ []) else (retiredAmong [k] s).retire[j]) =
      Vector.ofFn fun j : RetireIx => if j ∈ k :: l then s.retire[j].filter fun op => decide (op.members ≠ [])
        else s.retire[j] := by
    ext1 j hj
    rw [Vector.getElem_ofFn, Vector.getElem_ofFn, retiredAmong_retire]
    by_cases own : (⟨j, hj⟩ : RetireIx) = k
    · simp [own, fresh]
    · simp [own]
  unfold retiredAmong at slots later ⊢
  rw [later, slots, State.doneAmong_cons s k l]
  unfold retired
  generalize s.doneAmong [k] = first
  generalize s.doneAmong l = rest
  have either : (∃ op ∈ first ++ rest, op.kind = .purge) ↔ (∃ op ∈ first, op.kind = .purge) ∨ ∃ op ∈ rest, op.kind = .purge := by
    simp only [List.mem_append, or_and_right, exists_or]
  simp only [either, List.any_append, List.map_append, List.length_append, List.append_assoc, Bool.or_eq_true, List.any_eq_true,
    decide_eq_true_eq, Nat.sub_sub]
  by_cases inFirst : ∃ op ∈ first, op.kind = .purge
  · by_cases purging : s.processor.state = .purging
    · simp [inFirst, purging]
    · simp [inFirst, purging]
  · simp [inFirst]

/-- What a take test finds does not change what the next one finds. -/
theorem takeTest_retiredAmong (l : List RetireIx) (s : State) :
    takeTest (retiredAmong l (takeTest s)) = takeTest (retiredAmong l s) := by
  cases tested : s.processor.state.tested with
  | false => rw [takeTest_untested tested]
  | true =>
    have kept : retiredAmong l (s.setProc (takeTestState s)) = (retiredAmong l s).setProc (takeTestState s) := by
      have before := ProcState.ne_purging_of_tested tested
      have after := ProcState.ne_purging_of_tested (takeTestState_tested s)
      unfold retiredAmong
      rw [if_neg (fun c => after c.2), if_neg (fun c => before c.2)]
      rfl
    have processor : (retiredAmong l s).processor = s.processor := by
      unfold retiredAmong
      exact if_neg fun c => ProcState.ne_purging_of_tested tested c.2
    rw [takeTest_tested tested, kept, takeTest_setProc (by rw [processor]; exact tested) (takeTestState_tested s)]

/-- Operations that complete in turn, each with its take test, leave what their completion together leaves. -/
theorem foldl_completeIfEmpty {l : List RetireIx} (nodup : l.Nodup) (s : State) : l.foldl completeIfEmpty s =
    if s.doneAmong l = [] then s else takeTest (retiredAmong l s) := by
  induction l generalizing s with
  | nil => rfl
  | cons k rest ih =>
    obtain ⟨fresh, nodup⟩ := List.nodup_cons.mp nodup
    rw [List.foldl_cons, completeIfEmpty_eq, State.doneAmong_cons s k rest]
    by_cases first : s.doneAmong [k] = []
    · rw [if_pos first, ih nodup, first, List.nil_append, ← retiredAmong_cons fresh, retiredAmong_of_none first]
    · have later : (retiredAmong [k] s).doneAmong rest = s.doneAmong rest := retiredAmong_doneAmong fresh s
      have tested : (takeTest (retiredAmong [k] s)).doneAmong rest = s.doneAmong rest := by
        rw [takeTest_frame]; exact later
      rw [if_neg fun c => first (List.append_eq_nil_iff.mp c).1, if_neg first, ih nodup, tested, takeTest_retiredAmong,
        ← retiredAmong_cons fresh]
      by_cases none : s.doneAmong rest = []
      · rw [if_pos none, retiredAmong_of_none (later.trans none)]
      · rw [if_neg none]

/-- The completions of a happening (R110). -/
theorem completeRetires_eq (s : State) : completeRetires s =
    if s.doneAmong (allBelow 8) = [] then s else takeTest (retiredAmong (allBelow 8) s) :=
  foldl_completeIfEmpty (allBelow_nodup 8) s

/-! ## One operation done -/

theorem State.doneAmong_of_one {s : State} {j : RetireIx} {op : RetireOp} {l : List RetireIx} (nodup : l.Nodup) (mem : j ∈ l)
    (done : s.doneIn j = some op) (others : ∀ k, k ≠ j → s.doneIn k = none) : s.doneAmong l = [op] := by
  obtain ⟨before, after, rfl⟩ := List.append_of_mem mem
  obtain ⟨-, fresh_after, apart⟩ := List.nodup_append.mp nodup
  have none_before : before.filterMap s.doneIn = [] :=
    List.filterMap_eq_nil_iff.mpr fun k hk => others k fun c => apart k hk j (by simp) c
  have none_after : after.filterMap s.doneIn = [] :=
    List.filterMap_eq_nil_iff.mpr fun k hk => others k fun c => (List.nodup_cons.mp fresh_after).1 (c ▸ hk)
  unfold State.doneAmong
  rw [List.filterMap_append, List.filterMap_cons_some done, none_before, none_after, List.nil_append]

/-- Where one operation alone is done, it alone completes. -/
theorem foldl_completeIfEmpty_of_one {s : State} {j : RetireIx} {op : RetireOp} {l : List RetireIx} (nodup : l.Nodup)
    (mem : j ∈ l) (done : s.doneIn j = some op) (others : ∀ k, k ≠ j → s.doneIn k = none) :
    l.foldl completeIfEmpty s = takeTest (retiredAmong [j] s) := by
  have slots : (Vector.ofFn fun k : RetireIx => if k ∈ l then s.retire[k].filter fun op => decide (op.members ≠ [])
      else s.retire[k]) = Vector.ofFn fun k : RetireIx => if k ∈ [j] then s.retire[k].filter fun op => decide (op.members ≠ [])
        else s.retire[k] := by
    congr 1
    funext k
    by_cases hk : k = j
    · subst hk; simp [mem]
    · rw [if_neg (c := k ∈ [j]) (by simpa using hk), State.doneIn_eq_none (others k hk), ite_self]
  have same : retiredAmong l s = retiredAmong [j] s := by
    unfold retiredAmong
    rw [slots, State.doneAmong_of_one nodup mem done others,
      State.doneAmong_of_one (List.nodup_singleton j) (by simp) done others]
  rw [foldl_completeIfEmpty nodup, if_neg (by rw [State.doneAmong_of_one nodup mem done others]; simp), same]

end Sys2Proof.Machine
end

section
/-! The last completion under a DRAINING grant (R8, R9, R47, R109). -/

namespace Sys2Proof.Machine

/-- The end of one entry leaves every slot but its own as eligible as it was. -/
theorem setEntry_emptied_eligible {s : State} {k : EntryIx} {x : SlotIx} (h : s.tracker[k].grant ≠ x) :
    (s.setEntry k Entry.emptied).eligible x = s.eligible x := by
  rw [Bool.eq_iff_iff, State.eligible_iff, State.eligible_iff, State.inFlight_eq_zero, State.inFlight_eq_zero]
  refine and_congr Iff.rfl (and_congr ⟨fun idle j issued => ?_, fun idle j issued => ?_⟩ Iff.rfl)
  · by_cases hj : j = k
    · subst hj; exact h
    · have same := idle j
      rw [State.setEntry_tracker_get, if_neg hj] at same
      exact same issued
  · rw [State.setEntry_tracker_get] at issued ⊢
    split at issued
    · exact absurd issued (by decide)
    · next hj => rw [if_neg hj]; exact idle j issued

/-- With the end of the last entry under it, a DRAINING leaf without an owed notice is eligible (R8). -/
theorem setEntry_emptied_eligible_last {s : State} {k : EntryIx} {i : SlotIx} (draining : (s.grant i).state = .draining)
    (leaf : (s.grant i).children = []) (notice : (s.grant i).noticeOwed = none)
    (last : ∀ l : EntryIx, s.tracker[l].state = .issued → s.tracker[l].grant = i → l = k) :
    (s.setEntry k Entry.emptied).eligible i = true := by
  refine State.eligible_iff.mpr ⟨draining, State.inFlight_eq_zero.mpr fun j issued => ?_, leaf, notice⟩
  rw [State.setEntry_tracker_get] at issued ⊢
  split at issued
  · exact absurd issued (by decide)
  · next hj => rw [if_neg hj]; exact fun named => hj (last j issued named)

/-- The slot of a grant with no parent frees alone. -/
theorem freeAll_of_root {s : State} {i : SlotIx} (eligible : s.eligible i = true) (others : ∀ x, x ≠ i → s.eligible x = false)
    (root : (s.grant i).parent = none) : freeAll s = freeSlot i s :=
  freeAll_of_one eligible others (freeSlot_not_eligible others (by simp [root]) (by simp [root]))

theorem freeSlot_root_grant {s : State} {i : SlotIx} (root : (s.grant i).parent = none) (x : SlotIx) :
    (freeSlot i s).grant x = if x = i then freeRecord ((s.grant i).generation + 1) else s.grant x := by
  rw [freeSlot_grant i s (by simp [root])]
  simp [root]

/-- The member sets after one slot frees. -/
theorem freeSlot_retire (i : SlotIx) (s : State) (k : RetireIx) :
    (freeSlot i s).retire[k] = s.retire[k].map (RetireOp.without i) := by
  rw [freeSlot_frame]; simp

/-- The operation whose last member frees is done with it (R109). -/
theorem freeSlot_doneIn {s : State} {i : SlotIx} {j : RetireIx} {op : RetireOp} (slot : s.retire[j] = some op)
    (last : op.members = [i]) : (freeSlot i s).doneIn j = some { op with members := [] } := by
  rw [State.doneIn_eq_some, freeSlot_retire, slot]
  simp [RetireOp.without, last]

/-- Settles O13. -/
theorem lastCompletionFreesAndCompletes : Obligations.LastCompletionFreesAndCompletes := by
  intro s k j op running issued e i write draining root leaf notice last others alone slot members revoke noBarrier
  let v : State := (s.quiet.respond { lane := e.agent, tag := e.tag, outcome := .ok none }).setEntry k Entry.emptied
  have completes : exec (.memoryCompletion k .ok []) s = .next (settle v) := by
    rw [exec_memoryCompletion_issued running issued, if_pos draining]
    unfold answered
    rw [answerOk_write write]
  have freed : freeAll v = freeSlot i v := by
    refine freeAll_of_root (setEntry_emptied_eligible_last draining leaf notice last) (fun x hx => ?_) root
    exact (setEntry_emptied_eligible (s := s.quiet.respond _) fun c => hx c.symm).trans (others x hx)
  have done : (freeSlot i v).doneIn j = some { op with members := [] } := freeSlot_doneIn slot members
  have not_done : ∀ l, l ≠ j → (freeSlot i v).doneIn l = none := fun l hl => by
    have none : v.retire[l] = none := alone l hl
    unfold State.doneIn
    rw [freeSlot_retire, none]; rfl
  have slots : (freeSlot i v).retire.set j none = s.retire.set j none := by
    ext1 l hl
    rw [Vector.getElem_set, Vector.getElem_set]
    by_cases same : j.val = l
    · rw [if_pos same, if_pos same]
    · have none : v.retire[(⟨l, hl⟩ : RetireIx)] = none := alone _ fun c => same (congrArg Fin.val c).symm
      rw [if_neg same, if_neg same]
      refine (freeSlot_retire i v ⟨l, hl⟩).trans ?_
      rw [none]
      exact none.symm
  let t : State := { s with
    grants := (freeSlot i v).grants
    freeList := s.freeList ++ [i]
    tracker := s.tracker.set k ⟨.empty, 0, 0, 0, .read, 0, 0⟩
    retire := s.retire.set j none
    responseQueue := s.responseQueue ++ [.completion
      { tag := op.tag, status := if op.abandoned then .drainedAbandoned else .ok, kind := 0x05, handle := op.target,
        result := .absent }]
    reserved := s.reserved - 1
    out := ⟨[{ lane := e.agent, tag := e.tag, outcome := .ok none }], [], none⟩ }
  have retired : retiredAmong [j] (freeSlot i v) = t := by
    have not_purge : op.kind ≠ .purge := by rw [revoke]; decide
    rw [retiredAmong_single done, if_neg not_purge, if_neg fun c => not_purge c.1]
    unfold State.setRetire
    rw [State.postReserved, slots, freeSlot_frame]
    simp only [RetireOp.completion, revoke]
    rfl
  have settled : settle v = takeTest t := by
    unfold settle
    rw [freed, completeRetires, foldl_completeIfEmpty_of_one (allBelow_nodup 8) (mem_allBelow j) done not_done, retired]
    refine completeBarrier_of_none ?_
    rw [takeTest_frame]
    exact noBarrier
  refine ⟨_, completes, fun x => ?_, ?_⟩
  · rw [settled, takeTest_grant]
    exact freeSlot_root_grant (s := v) root x
  · rw [settled, takeTest_grants]

end Sys2Proof.Machine
end

section
/-! The takes of the revoking commands (R101–R111). -/

namespace Sys2Proof.Machine

/-! ## Freeing and the open operations -/

theorem freeLoop_frame (n : Nat) (s : State) : freeLoop n s = { s with
    grants := (freeLoop n s).grants, freeList := (freeLoop n s).freeList, retire := (freeLoop n s).retire } := by
  induction n generalizing s with
  | zero => rfl
  | succ n ih =>
    cases next : s.slots.find? s.eligible with
    | none => rw [freeLoop_of_none (State.find_eligible_none.mp next)]
    | some i =>
      rw [freeLoop_succ_of_find next, ih (freeSlot i s)]
      rw [freeSlot_frame]

/-- Freeing changes the table, the free list and the member sets alone. -/
theorem freeAll_frame (s : State) : freeAll s = { s with
    grants := (freeAll s).grants, freeList := (freeAll s).freeList, retire := (freeAll s).retire } := freeLoop_frame 1024 s

theorem freeLoop_retire_isSome (n : Nat) (s : State) (k : RetireIx) :
    (freeLoop n s).retire[k].isSome = s.retire[k].isSome := by
  induction n generalizing s with
  | zero => rfl
  | succ n ih =>
    cases next : s.slots.find? s.eligible with
    | none => rw [freeLoop_of_none (State.find_eligible_none.mp next)]
    | some i => rw [freeLoop_succ_of_find next, ih, freeSlot_retire, Option.isSome_map]

/-- An operation stays open while slots free (R9). -/
theorem freeAll_retire_isSome (s : State) (k : RetireIx) : (freeAll s).retire[k].isSome = s.retire[k].isSome :=
  freeLoop_retire_isSome 1024 s k

/-! ## The completions of a take -/

/-- The order in which a take completes operations: the others ascending, the command's own last (log entry 14). -/
def takeOrder (k : RetireIx) : List RetireIx := (allBelow 8).filter (fun j => j != k) ++ [k]

theorem completeTakes_eq_foldl (k : RetireIx) (s : State) : completeTakes k s = (takeOrder k).foldl completeIfEmpty s := by
  unfold completeTakes takeOrder
  rw [List.foldl_append]
  rfl

theorem mem_takeOrder (j k : RetireIx) : j ∈ takeOrder k := by
  by_cases h : j = k <;> simp [takeOrder, h]

theorem takeOrder_nodup (k : RetireIx) : (takeOrder k).Nodup := by
  refine List.nodup_append.mpr ⟨(allBelow_nodup 8).filter _, List.nodup_singleton k, fun a ha b hb => ?_⟩
  rw [List.mem_singleton.mp hb]
  simpa using (List.mem_filter.mp ha).2

/-- The operations of the other slots that are done. -/
theorem State.emptied_without (s : State) (k : RetireIx) : ({ s with retire := s.retire.set k none } : State).emptied =
    s.doneAmong ((allBelow 8).filter (fun j => j != k)) := by
  rw [State.emptied_eq]
  unfold State.doneAmong
  rw [List.filterMap_filter]
  refine List.filterMap_congr fun j _ => ?_
  by_cases h : j = k
  · subst h; simp [State.doneIn]
  · have ne : k.val ≠ j.val := fun c => h (Fin.ext c.symm)
    simp [State.doneIn, h, Vector.getElem_set_ne, ne]

theorem State.doneAmong_takeOrder {s : State} {k : RetireIx} {own : RetireOp} (slot : s.retire[k] = some own) :
    s.doneAmong (takeOrder k) = if own.members = [] then ({ s with retire := s.retire.set k none } : State).emptied ++ [own]
      else ({ s with retire := s.retire.set k none } : State).emptied := by
  rw [State.emptied_without]
  unfold State.doneAmong takeOrder
  rw [List.filterMap_append]
  by_cases done : own.members = [] <;> simp [State.doneIn, -Fin.getElem_fin, slot, done, Option.filter]

/-- All slots' operations that are done, completed outside PURGING. -/
theorem retiredAmong_all {l : List RetireIx} (all : ∀ k, k ∈ l) {s : State} (outside : s.processor.state ≠ .purging) :
    retiredAmong l s = retired s (s.doneAmong l) := by
  have slots : (Vector.ofFn fun k : RetireIx => if k ∈ l then s.retire[k].filter fun op => decide (op.members ≠ [])
      else s.retire[k]) = s.retire.map fun slot => slot.filter fun op => decide (op.members ≠ []) := by
    ext1 j hj
    rw [Vector.getElem_ofFn, if_pos (all _), Vector.getElem_map]
    rfl
  unfold retiredAmong
  rw [slots, if_neg fun c => outside c.2]
  rfl

/-- The completions of a take, but for the take test that ends it (R107). -/
theorem completeTakes_eq {s : State} {k : RetireIx} (outside : s.processor.state ≠ .purging) :
    let ended := retired s (s.doneAmong (takeOrder k))
    completeTakes k s = ended ∨ completeTakes k s = takeTest ended := by
  intro ended
  have together : retiredAmong (takeOrder k) s = ended := retiredAmong_all (fun j => mem_takeOrder j k) outside
  rw [completeTakes_eq_foldl, foldl_completeIfEmpty (takeOrder_nodup k)]
  split
  · next none => exact .inl ((retiredAmong_of_none none).symm.trans together)
  · exact .inr (congrArg takeTest together)

theorem retired_retire (s : State) (done : List RetireOp) (k : RetireIx) :
    (retired s done).retire[k] = s.retire[k].filter fun op => decide (op.members ≠ []) := by
  simp [retired]

theorem takeTest_setProc_eq (s : State) (p : ProcState) : (takeTest s).setProc p = s.setProc p := by
  rw [takeTest_frame]; rfl

/-- How the take of a revoking command ends (R101, R107). -/
theorem afterOpening_completeTakes {kind : RetireKind} {s : State} {k : RetireIx} {own : RetireOp}
    (outside : s.processor.state ≠ .purging) (slot : s.retire[k] = some own) :
    let ended := retired s (s.doneAmong (takeOrder k))
    afterOpening kind k (completeTakes k s) = if kind = .purge ∧ own.members ≠ []
      then { ended with processor := { s.processor with state := .purging } } else takeTest ended := by
  intro ended
  have stays_open : ended.retire[k].isSome ↔ own.members ≠ [] := by
    rw [retired_retire, slot]
    by_cases h : own.members = [] <;> simp [h, Option.filter]
  unfold afterOpening
  rcases completeTakes_eq (k := k) outside with h | h
  · rw [h]
    exact if_congr (and_congr Iff.rfl stays_open) rfl rfl
  · have same : (takeTest ended).retire[k] = ended.retire[k] := by rw [takeTest_frame]
    rw [h, takeTest_takeTest, same, takeTest_setProc_eq]
    exact if_congr (and_congr Iff.rfl stays_open) rfl rfl

/-! ## The opening of an operation -/

/-- The opened operation stands in the state in which its members have freed. -/
theorem drainMembers_own (members : List SlotIx) {s : State} {k : RetireIx} {op : RetireOp} (slot : s.retire[k] = some op) :
    ∃ own, (drainMembers members s).retire[k] = some own := by
  refine Option.isSome_iff_exists.mp ?_
  unfold drainMembers
  split
  · rw [freeAll_retire_isSome]
    exact Option.isSome_iff_exists.mpr ⟨op, slot⟩
  · exact Option.isSome_iff_exists.mpr ⟨op, slot⟩

theorem drainMembers_processor (members : List SlotIx) (s : State) : (drainMembers members s).processor = s.processor := by
  unfold drainMembers
  split
  · rw [freeAll_frame]; rfl
  · rfl

theorem State.freeRetire_eq_some {s : State} {k : RetireIx} (h : s.freeRetire = some k) :
    s.retire[k] = none ∧ ∀ j : RetireIx, j < k → s.retire[j] ≠ none := by
  unfold State.freeRetire at h
  obtain ⟨free, lower⟩ := find?_allBelow.mp h
  exact ⟨Option.isNone_iff_eq_none.mp free, fun j hj => Option.isSome_iff_ne_none.mp (by simpa using lower j hj)⟩

/-- A take of a revoking command finds a FREE retire slot (R67). -/
theorem TakeReady.freeRetire {s : State} {r : CommandRecord} {rest : List CommandRecord} (ready : TakeReady s r rest)
    (revoking : r.revoking = true) : ∃ k, s.freeRetire = some k := by
  cases none : s.freeRetire with
  | some k => exact ⟨k, rfl⟩
  | none =>
    have full : s.openCount = 8 := State.openCount_eq_eight.mpr fun k c => by
      have := find?_allBelow_none.mp none k
      rw [c] at this
      exact absurd this (by decide)
    have := ready.retireSlot revoking
    omega

/-- The table once the members drain: untouched where none is in use (R101, R104). -/
def drainedBy (members : List SlotIx) (s : State) : State :=
  if members.any (fun i => (s.grant i).state.inUse) then drainSlots (fun i => members.contains i) s else s

theorem drainMembers_eq (members : List SlotIx) (s : State) : drainMembers members s =
    if members.any (fun i => (s.grant i).state.inUse) then freeAll (drainedBy members s) else drainedBy members s := by
  unfold drainMembers drainedBy
  split <;> rfl

theorem drainedBy_grant (members : List SlotIx) (s : State) (i : SlotIx) : (drainedBy members s).grant i =
    if i ∈ members ∧ (s.grant i).state.inUse = true then { s.grant i with state := .draining } else s.grant i := by
  unfold drainedBy
  split
  · rw [drainSlots_grant]
    simp
  · next none => rw [if_neg fun c => none (List.any_eq_true.mpr ⟨i, c⟩)]

theorem drainedBy_wf {members : List SlotIx} {s : State} (wf : s.grants.wf = true) : (drainedBy members s).grants.wf = true := by
  unfold drainedBy
  split
  · exact drainSlots_wf _ _
  · exact wf

theorem drainedBy_frame (members : List SlotIx) (s : State) : drainedBy members s =
    { s with grants := (drainedBy members s).grants } := by
  unfold drainedBy
  split <;> rfl

/-- What integrity comparisons leave of a state (R18). -/
structure Compared (s u : State) : Prop where
  retire    : u.retire = s.retire
  reserved  : u.reserved = s.reserved
  config    : u.config = s.config
  processor : u.processor = s.processor
  shape     : ∀ i, u.grant i = { s.grant i with damaged := (u.grant i).damaged }
  wf        : s.grants.wf = true → u.grants.wf = true

theorem Compared.refl (s : State) : Compared s s := ⟨rfl, rfl, rfl, rfl, fun _ => rfl, id⟩

theorem Compared.read {s u : State} (h : Compared s u) (i : SlotIx) : Compared s (integrityRead i u) where
  retire := by rw [integrityRead_frame]; exact h.retire
  reserved := by rw [integrityRead_frame]; exact h.reserved
  config := by rw [integrityRead_frame]; exact h.config
  processor := by rw [integrityRead_frame]; exact h.processor
  shape j := by
    rw [integrityRead_grant, h.shape j]
  wf := fun hs => integrityRead_wf (h.wf hs)

theorem Compared.scan {s u : State} (h : Compared s u) : Compared s (integrityScan u) := by
  unfold integrityScan
  generalize u.nonFree = l
  induction l generalizing u with
  | nil => exact h
  | cons i rest ih => exact ih (h.read i)

theorem drainedBy_tracker (members : List SlotIx) (s : State) : (drainedBy members s).tracker = s.tracker := by
  rw [drainedBy_frame]

/-- A revoking command's take, once its members are known (R101, R107). -/
theorem revokesAtTheTake_of_openOperation {c : Instr} {s u : State} {r : CommandRecord} {rest : List CommandRecord}
    {kind : RetireKind} {target : Option Handle} {isMember : SlotIx → Bool} {members : List SlotIx}
    (ready : TakeReady s r rest) (revoking : r.revoking = true)
    (takes : exec c s = .next (stopProcessor (openOperation kind r target members (u.takeHead rest))))
    (chosen : members = (List.finRange 1024).filter fun i => decide ((s.grant i).state ≠ .free) && isMember i)
    (read : Compared s u) (wf : s.grants.wf = true) :
    RevokesAtTheTake c s u r rest kind target isMember := by
  obtain ⟨k, free⟩ := ready.freeRetire revoking
  obtain ⟨none, lower⟩ := State.freeRetire_eq_some free
  let op := openedOp kind r.tag target members u.config.drainTimeout
  let opened := (u.takeHead rest).setRetire k (some op)
  have slot : opened.retire[k] = some op := by simp [opened, State.setRetire]
  obtain ⟨own, stands⟩ := drainMembers_own members slot
  have idle : (drainMembers members opened).processor = s.processor := (drainMembers_processor members opened).trans read.processor
  have outside : (drainMembers members opened).processor.state ≠ .purging := by rw [idle, ready.idle]; decide
  have inUse (i : SlotIx) : (opened.grant i).state.inUse = (s.grant i).state.inUse := by
    rw [show opened.grant i = u.grant i from rfl, read.shape i]
  have moved : members.any (fun i => (opened.grant i).state.inUse) = members.any fun i => (s.grant i).state.inUse := by
    simp only [inUse]
  have w : (if members.any (fun i => (s.grant i).state.inUse) then freeAll (drainedBy members opened)
      else drainedBy members opened) = drainMembers members opened := by
    rw [drainMembers_eq, moved]
  unfold RevokesAtTheTake
  rw [← chosen]
  refine ⟨k, drainedBy members opened, own, none, lower, drainedBy_wf (read.wf wf), fun i => ?_, ?_, ?_, ?_⟩
  · rw [drainedBy_grant, inUse]
    rfl
  · rw [drainedBy_frame, ← read.retire, ← read.reserved, ← read.config]
    rfl
  · rw [w]; exact stands
  · have found : (u.takeHead rest).freeRetire = some k := by
      rw [← free]
      unfold State.freeRetire
      rw [show (u.takeHead rest).retire = u.retire from rfl, read.retire]
    have opens : openOperation kind r target members (u.takeHead rest) =
        afterOpening kind k (completeTakes k (drainMembers members opened)) := by
      unfold openOperation
      rw [found]
      rfl
    rw [w, takes, opens, afterOpening_completeTakes outside stands, State.doneAmong_takeOrder stands, idle]

theorem integrityScan_takeHead (s : State) (rest : List CommandRecord) :
    integrityScan (s.takeHead rest) = (integrityScan s).takeHead rest := by
  unfold integrityScan
  rw [show (s.takeHead rest).nonFree = s.nonFree from rfl]
  generalize s.nonFree = l
  induction l generalizing s with
  | nil => rfl
  | cons i l ih => rw [List.foldl_cons, List.foldl_cons, integrityRead_takeHead, ih]

theorem Compared.ancestors {s u : State} (h : Compared s u) : u.ancestors = s.ancestors :=
  State.ancestors_congr fun i => by rw [h.shape i]

/-- Members chosen after the comparisons are those chosen before. -/
theorem Compared.nonFree_filter {s u : State} (h : Compared s u) (wf : s.grants.wf = true) {p q : SlotIx → Bool}
    (same : ∀ i, p i = q i) : u.nonFree.filter p =
      (List.finRange 1024).filter fun i => decide ((s.grant i).state ≠ .free) && q i := by
  rw [State.nonFree_filter (h.wf wf)]
  refine List.filter_congr fun i _ => ?_
  rw [same i, h.shape i]

theorem Compared.quiet (s : State) : Compared s s.quiet := ⟨rfl, rfl, rfl, rfl, fun _ => rfl, id⟩

theorem CommandRecord.revoking_of_kind {r : CommandRecord} {k : CommandKind} (kind : r.kind = some k)
    (h : k = .revoke ∨ k = .revokeAgent ∨ k = .purge) : r.revoking = true := by
  unfold CommandRecord.revoking
  rw [kind]
  rcases h with rfl | rfl | rfl <;> rfl

/-- The take of a REVOKE of a handle that resolves. -/
theorem revoke_revokesAtTheTake {s : State} {r : CommandRecord} {rest : List CommandRecord} (ready : TakeReady s r rest)
    (wf : s.grants.wf = true) (passes : Passes r .revoke) (resolves : s.resolves r.handle = true) :
    let i := handleSlot r.handle
    RevokesAtTheTake .revoke s (integrityRead i s.quiet) r rest .revoke (some r.handle)
      fun j => decide (j = i ∨ i ∈ s.ancestors j) := by
  intro i
  have read : Compared s (integrityRead i s.quiet) := (Compared.quiet s).read i
  have body : revokeBody r (s.quiet.takeHead rest) = (.stays, openOperation .revoke r (some r.handle)
      (revokeMembers (integrityRead i s.quiet) i) ((integrityRead i s.quiet).takeHead rest)) := by
    unfold revokeBody
    rw [if_pos (show (s.quiet.takeHead rest).resolves r.handle = true from resolves)]
    dsimp only
    rw [integrityRead_takeHead]
    rfl
  refine revokesAtTheTake_of_openOperation (members := revokeMembers (integrityRead i s.quiet) i) ready
    (CommandRecord.revoking_of_kind passes.kind (.inl rfl)) ?_ (read.nonFree_filter wf fun j => ?_) read wf
  · simp only [exec, execRevoke]
    rw [take_of_passes ready passes, body]
    rfl
  · rw [Bool.eq_iff_iff, State.within_iff, read.ancestors, decide_eq_true_eq]

theorem revokeAgent_revokesAtTheTake {s : State} {r : CommandRecord} {rest : List CommandRecord} (ready : TakeReady s r rest)
    (wf : s.grants.wf = true) (passes : Passes r .revokeAgent) :
    RevokesAtTheTake .revokeAgent s (integrityScan s.quiet) r rest .revokeAgent none
      fun j => (j :: s.ancestors j).any fun p => decide ((s.grant p).grantee = r.agent) := by
  have read : Compared s (integrityScan s.quiet) := (Compared.quiet s).scan
  have body : revokeAgentBody r (s.quiet.takeHead rest) = (.stays, openOperation .revokeAgent r none
      (agentMembers (integrityScan s.quiet) r.agent) ((integrityScan s.quiet).takeHead rest)) := by
    unfold revokeAgentBody
    rw [integrityScan_takeHead]
    rfl
  refine revokesAtTheTake_of_openOperation (members := agentMembers (integrityScan s.quiet) r.agent) ready
    (CommandRecord.revoking_of_kind passes.kind (.inr (.inl rfl))) ?_ (read.nonFree_filter wf fun j => ?_) read wf
  · simp only [exec, execRevokeAgent]
    rw [take_of_passes ready passes, body]
    rfl
  · rw [read.ancestors]
    congr 1
    funext p
    rw [read.shape p, beq_eq_decide]

theorem purge_revokesAtTheTake {s : State} {r : CommandRecord} {rest : List CommandRecord} (ready : TakeReady s r rest)
    (wf : s.grants.wf = true) (passes : Passes r .purge) :
    RevokesAtTheTake .purge s s.quiet r rest .purge none fun _ => true := by
  refine revokesAtTheTake_of_openOperation (members := s.quiet.nonFree) ready
    (CommandRecord.revoking_of_kind passes.kind (.inr (.inr rfl))) ?_ ?_ (Compared.quiet s) wf
  · simp only [exec, execPurge]
    rw [take_of_passes ready passes]
    rfl
  · rw [← (Compared.quiet s).nonFree_filter wf (p := fun _ => true) fun _ => rfl, List.filter_true]

/-! ## Takes that complete their own command -/

/-- The command that opens a kind of operation. -/
def RetireKind.command : RetireKind → CommandKind
  | .revoke => .revoke
  | .revokeAgent => .revokeAgent
  | .purge => .purge

/-- A revoking record's kind code is the one its operation completes with (R109). -/
theorem CommandRecord.kindCode_of_kind {r : CommandRecord} {kind : RetireKind} (h : r.kind = some kind.command) :
    retireKindCode kind = r.kindCode := by
  unfold CommandRecord.kind kindOfCode at h
  apply BitVec.eq_of_toNat_eq
  cases kind <;> (unfold RetireKind.command at h; split at h <;> simp_all [retireKindCode])

/-- A take that empties its own operation, and no other. -/
theorem openOperation_of_emptied {kind : RetireKind} {r : CommandRecord} {target : Option Handle} {members : List SlotIx}
    {s : State} {k : RetireIx} {own : RetireOp} (free : s.freeRetire = some k) :
    let opened := s.setRetire k (some (openedOp kind r.tag target members s.config.drainTimeout))
    (drainMembers members opened).doneIn k = some own →
    (∀ j, j ≠ k → (drainMembers members opened).doneIn j = none) →
    openOperation kind r target members s = takeTest (retiredAmong [k] (drainMembers members opened)) := by
  intro opened done others
  unfold openOperation
  rw [free]
  dsimp only
  rw [completeTakes_eq_foldl, foldl_completeIfEmpty_of_one (takeOrder_nodup k) (mem_takeOrder k k) done others]
  unfold afterOpening
  rw [if_neg, takeTest_takeTest]
  rintro ⟨-, stays⟩
  rw [takeTest_frame] at stays
  have gone : (retiredAmong [k] (drainMembers members opened)).retire[k] = none := by
    rw [retiredAmong_retire, if_pos (List.mem_singleton_self k)]
    obtain ⟨slot, empty⟩ := State.doneIn_eq_some.mp done
    rw [slot]
    simp [empty, Option.filter]
  exact absurd (gone ▸ stays) (by simp)

theorem State.doneIn_of_nonempty {s : State} {k : RetireIx} (h : ∀ op, s.retire[k] = some op → op.members ≠ []) :
    s.doneIn k = none :=
  Option.eq_none_iff_forall_ne_some.mpr fun op done => h op (State.doneIn_eq_some.mp done).1 (State.doneIn_eq_some.mp done).2

/-- A FREE slot, filled and emptied again. -/
theorem vector_set_set_of_get {n : Nat} {α : Type} {v : Vector α n} {k : Fin n} {x y : α} (h : v[k] = x) :
    (v.set k y).set k x = v := by
  ext1 j hj
  rw [Vector.getElem_set, Vector.getElem_set]
  split
  · next same => subst same; exact h.symm
  · rfl

/-- One operation completed outside PURGING (R109, R111). -/
theorem retiredAmong_single_outside {s : State} {k : RetireIx} {op : RetireOp} (done : s.doneIn k = some op)
    (outside : s.processor.state ≠ .purging) : retiredAmong [k] s = { s with
      ranges := if op.kind = .purge then Vector.replicate 4 { enabled := false, base := 0, length := 0 } else s.ranges
      freezeLevel := if op.kind = .purge then 0 else s.freezeLevel
      responseQueue := s.responseQueue ++ [.completion op.completion]
      reserved := s.reserved - 1
      retire := s.retire.set k none } := by
  have off : ¬(op.kind = .purge ∧ s.processor.state = .purging) := fun c => outside c.2
  rw [retiredAmong_single done, if_neg off]
  by_cases purge : op.kind = .purge
  · simp only [purge, if_true]; rfl
  · simp only [purge, if_false]; rfl

theorem setRetire_get_of_ne {s : State} {j k : RetireIx} (h : j ≠ k) (op : Option RetireOp) :
    (s.setRetire k op).retire[j] = s.retire[j] := by
  have ne : k.val ≠ j.val := fun c => h (Fin.ext c.symm)
  simp [State.setRetire, Vector.getElem_set_ne, ne]

/-- A take without members completes at once (R101, R107). -/
theorem openOperation_nil {kind : RetireKind} {r : CommandRecord} {target : Option Handle} {s : State} {k : RetireIx}
    (free : s.freeRetire = some k) (idle : s.processor.state = .idle)
    (nonempty : ∀ (k : RetireIx) op, s.retire[k] = some op → op.members ≠ []) : openOperation kind r target [] s =
      takeTest { s with
        ranges := if kind = .purge then Vector.replicate 4 { enabled := false, base := 0, length := 0 } else s.ranges
        freezeLevel := if kind = .purge then 0 else s.freezeLevel
        responseQueue := s.responseQueue ++ [.completion
          { tag := r.tag, status := .ok, kind := retireKindCode kind, handle := target, result := .absent }]
        reserved := s.reserved - 1 } := by
  let own := openedOp kind r.tag target [] s.config.drainTimeout
  let opened := s.setRetire k (some own)
  have drained : drainMembers [] opened = opened := rfl
  have done : opened.doneIn k = some own := State.doneIn_eq_some.mpr ⟨by simp [opened, State.setRetire], rfl⟩
  have others (j : RetireIx) (hj : j ≠ k) : opened.doneIn j = none :=
    State.doneIn_of_nonempty fun op slot => nonempty j op ((setRetire_get_of_ne hj _).symm.trans slot)
  have slots : (opened.retire.set k none) = s.retire := vector_set_set_of_get (State.freeRetire_eq_some free).1
  have outside : opened.processor.state ≠ .purging := by
    rw [show opened.processor = s.processor from rfl, idle]; decide
  rw [openOperation_of_emptied free (own := own) (by rw [drained]; exact done) (by rw [drained]; exact others), drained,
    retiredAmong_single_outside done outside, slots]
  rfl

/-- A slot outside a member set leaves it as it is when it frees. -/
theorem RetireOp.without_of_not_mem {op : RetireOp} {i : SlotIx} (h : i ∉ op.members) : op.without i = op := by
  have same : op.members.filter (fun m => m != i) = op.members :=
    List.filter_eq_self.mpr fun m hm => by simpa using fun c : m = i => h (c ▸ hm)
  unfold RetireOp.without
  rw [same]

/-- The draining of one member in use (R101). -/
theorem drainedBy_single_grant {members : List SlotIx} {s : State} {i : SlotIx} (alone : ∀ j, j ∈ members ↔ j = i)
    (inUse : (s.grant i).state.inUse = true) (j : SlotIx) :
    (drainedBy members s).grant j = if j = i then { s.grant i with state := .draining } else s.grant j := by
  rw [drainedBy_grant]
  by_cases h : j = i
  · subst h
    rw [if_pos ⟨(alone j).mpr rfl, inUse⟩, if_pos rfl]
  · rw [if_neg fun c => h ((alone j).mp c.1), if_neg h]

/-- One member that nothing else holds frees at once (R8, R104). -/
theorem drainMembers_root {members : List SlotIx} {s : State} {i : SlotIx} (calm : ∀ j, s.eligible j = false)
    (alone : ∀ j, j ∈ members ↔ j = i) (inUse : (s.grant i).state.inUse = true) (root : (s.grant i).parent = none)
    (leaf : (s.grant i).children = []) (notice : (s.grant i).noticeOwed = none) (flight : s.inFlight i = 0) :
    drainMembers members s = freeSlot i (drainedBy members s) := by
  have grant := drainedBy_single_grant alone inUse
  have own : (drainedBy members s).grant i = { s.grant i with state := .draining } := by rw [grant, if_pos rfl]
  have tracker := drainedBy_tracker members s
  have count : (drainedBy members s).inFlight i = s.inFlight i := by unfold State.inFlight; rw [tracker]
  have eligible : (drainedBy members s).eligible i = true := by
    rw [State.eligible_iff, own, count]
    exact ⟨rfl, flight, leaf, notice⟩
  have others (j : SlotIx) (hj : j ≠ i) : (drainedBy members s).eligible j = false :=
    (State.eligible_of_grant (by rw [grant, if_neg hj]) tracker).trans (calm j)
  rw [drainMembers_eq, if_pos (List.any_eq_true.mpr ⟨i, (alone i).mpr rfl, inUse⟩)]
  exact freeAll_of_root eligible others (by rw [own]; exact root)

/-- A REVOKE whose one member is a root leaf with nothing in flight and no notice owed (R104, R107). -/
theorem openOperation_root {r : CommandRecord} {target : Option Handle} {s : State} {k : RetireIx} {i : SlotIx}
    {members : List SlotIx} (free : s.freeRetire = some k) (idle : s.processor.state = .idle)
    (nonempty : ∀ (k : RetireIx) op, s.retire[k] = some op → op.members ≠ [])
    (outside : ∀ (k : RetireIx) op, s.retire[k] = some op → i ∉ op.members) (calm : ∀ j, s.eligible j = false)
    (alone : ∀ j, j ∈ members ↔ j = i) (inUse : (s.grant i).state.inUse = true) (root : (s.grant i).parent = none)
    (leaf : (s.grant i).children = []) (notice : (s.grant i).noticeOwed = none) (flight : s.inFlight i = 0) :
    ∃ t, openOperation .revoke r target members s = t ∧
      (∀ j, t.grant j = if j = i then freeRecord ((s.grant i).generation + 1) else s.grant j) ∧
      t = takeTest { s with
        grants := t.grants
        freeList := s.freeList ++ [i]
        responseQueue := s.responseQueue ++ [.completion
          { tag := r.tag, status := .ok, kind := 0x05, handle := target, result := .absent }]
        reserved := s.reserved - 1 } := by
  let own := openedOp .revoke r.tag target members s.config.drainTimeout
  let opened := s.setRetire k (some own)
  let freed := freeSlot i (drainedBy members opened)
  have frame : freed = { s with
      grants := freed.grants
      freeList := s.freeList ++ [i]
      retire := opened.retire.map (Option.map (RetireOp.without i)) } := by
    rw [show freed = freeSlot i (drainedBy members opened) from rfl, freeSlot_frame, drainedBy_frame]
    rfl
  have drains : drainMembers members opened = freed :=
    drainMembers_root (s := opened) (fun j => (congrFun (State.eligible_of_grants rfl rfl) j).trans (calm j)) alone inUse root
      leaf notice flight
  have grant (j : SlotIx) : freed.grant j = if j = i then freeRecord ((s.grant i).generation + 1) else s.grant j := by
    have single := drainedBy_single_grant (s := opened) alone inUse
    have own_grant : (drainedBy members opened).grant i = { s.grant i with state := .draining } := (single i).trans (if_pos rfl)
    refine (freeSlot_root_grant (by rw [own_grant]; exact root) j).trans ?_
    rw [own_grant, single]
    by_cases h : j = i
    · rw [if_pos h, if_pos h]
    · rw [if_neg h, if_neg h, if_neg h]
      rfl
  have retire (j : RetireIx) : freed.retire[j] = if j = k then some (own.without i) else s.retire[j] := by
    rw [congrArg State.retire frame]
    by_cases h : j = k
    · subst h; simp [opened, State.setRetire]
    · rw [if_neg h]
      refine (Vector.getElem_map _ _).trans ?_
      rw [← Fin.getElem_fin, setRetire_get_of_ne h]
      cases slot : s.retire[j] with
      | none => rfl
      | some op => exact congrArg some (RetireOp.without_of_not_mem (outside j op slot))
  have emptied : (own.without i).members = [] := List.filter_eq_nil_iff.mpr fun m hm => by simpa using (alone m).mp hm
  have done : freed.doneIn k = some (own.without i) := State.doneIn_eq_some.mpr ⟨by rw [retire, if_pos rfl], emptied⟩
  have held (j : RetireIx) (hj : j ≠ k) : freed.doneIn j = none :=
    State.doneIn_of_nonempty fun op slot => nonempty j op (by rw [← slot, retire, if_neg hj])
  have slots : freed.retire.set k none = s.retire := by
    ext1 j hj
    rw [Vector.getElem_set]
    split
    · next same => subst same; exact (State.freeRetire_eq_some free).1.symm
    · next ne => exact (retire ⟨j, hj⟩).trans (if_neg fun c => ne (congrArg Fin.val c).symm)
  have not_purging : freed.processor.state ≠ .purging := by
    rw [congrArg State.processor frame]
    show s.processor.state ≠ .purging
    rw [idle]; decide
  have opens : openOperation .revoke r target members s = takeTest (retiredAmong [k] freed) := by
    rw [openOperation_of_emptied free (own := own.without i) (by rw [drains]; exact done) (by rw [drains]; exact held), drains]
  have retired := retiredAmong_single_outside done not_purging
  refine ⟨_, opens, fun j => ?_, ?_⟩
  · rw [takeTest_grant, retired]
    exact grant j
  · rw [takeTest_grants, retired, slots]
    refine congrArg takeTest ?_
    rw [frame]
    rfl

/-- The take of a record that does not stay (R68). -/
theorem stopProcessor_takeTest {s : State} (running : s.runState = .running) : stopProcessor (takeTest s) = takeTest s :=
  stopProcessor_running (by rw [takeTest_runState]; exact running)

/-- The take of a revoking command that has no members, to its end. -/
theorem endTake_nil {s : State} {r : CommandRecord} {rest : List CommandRecord} {kind : RetireKind} (ready : TakeReady s r rest)
    (named : r.kind = some kind.command) (nonempty : ∀ (k : RetireIx) op, s.retire[k] = some op → op.members ≠ [])
    (target : Option Handle) : endTake r .stays (openOperation kind r target [] (s.quiet.takeHead rest)) =
      completedTake { s.quiet with
        ranges := if kind = .purge then Vector.replicate 4 { enabled := false, base := 0, length := 0 } else s.ranges
        freezeLevel := if kind = .purge then 0 else s.freezeLevel } rest (completionOf r .ok target .absent) := by
  obtain ⟨k, free⟩ := ready.freeRetire (CommandRecord.revoking_of_kind named (by cases kind <;> simp [RetireKind.command]))
  have opens := openOperation_nil (kind := kind) (r := r) (target := target) (s := s.quiet.takeHead rest) free ready.idle nonempty
  rw [opens, CommandRecord.kindCode_of_kind named]
  exact stopProcessor_takeTest ready.running

/-- A scan of a table without mismatches finds nothing (R18). -/
theorem integrityScan_of_codes {s : State} (codes : ∀ j, (s.grant j).state ≠ .free → (s.grant j).codeMatches = true) :
    integrityScan s = s := by
  unfold integrityScan
  have all : ∀ i ∈ s.nonFree, (s.grant i).codeMatches = true := fun i hi => codes i (State.mem_nonFree.mp hi)
  generalize s.nonFree = l at all
  induction l with
  | nil => rfl
  | cons i rest ih =>
    rw [List.foldl_cons, integrityRead_of_ok (.inl (all i (by simp)))]
    exact ih fun j hj => all j (by simp [hj])

/-- Settles O36. -/
theorem revokingCommandsCompleteAtTheTake : Obligations.RevokingCommandsCompleteAtTheTake := by
  refine ⟨fun s r rest ready wf => ⟨fun passes used current => ?_, revokeAgent_revokesAtTheTake ready wf,
    purge_revokesAtTheTake ready wf⟩, fun s r rest ready nonempty calm => ?_⟩
  · exact revoke_revokesAtTheTake ready wf passes (State.resolves_iff.mpr ⟨used, current⟩)
  intro i g
  refine ⟨fun passes stale => ?_, fun passes inUse current code root leaf notice flight under outside => ?_,
    fun passes others => ?_, fun passes empty => ?_⟩
  · have body : revokeBody r (s.quiet.takeHead rest) =
        (.completes .notLive (some r.handle) .absent, s.quiet.takeHead rest) := by
      refine if_neg fun c => ?_
      obtain ⟨used, current⟩ := State.resolves_iff.mp c
      exact stale.elim used fun old => old current
    simp only [exec, execRevoke]
    rw [take_of_passes ready passes, body]
    exact congrArg _ (endTake_refused .notLive (some r.handle) rest ready.running)
  · have resolves : (s.quiet.takeHead rest).resolves r.handle = true :=
      State.resolves_iff.mpr ⟨State.ne_free_of_inUse inUse, current⟩
    have body : revokeBody r (s.quiet.takeHead rest) = (.stays, openOperation .revoke r (some r.handle)
        (revokeMembers (s.quiet.takeHead rest) i) (s.quiet.takeHead rest)) := by
      have unread : integrityRead i (s.quiet.takeHead rest) = s.quiet.takeHead rest := integrityRead_of_ok (.inl code)
      refine (if_pos resolves).trans ?_
      dsimp only
      rw [unread]
    have alone (j : SlotIx) : j ∈ revokeMembers (s.quiet.takeHead rest) i ↔ j = i := by
      rw [State.mem_revokeMembers]
      refine ⟨fun ⟨_, h⟩ => h.resolve_right (under j), ?_⟩
      rintro rfl
      exact ⟨State.ne_free_of_inUse inUse, .inl rfl⟩
    obtain ⟨k, free⟩ := ready.freeRetire (CommandRecord.revoking_of_kind passes.kind (.inl rfl))
    obtain ⟨t, opens, grants, result⟩ := openOperation_root (r := r) (target := some r.handle) (s := s.quiet.takeHead rest)
      free ready.idle nonempty outside calm alone inUse root leaf notice flight
    refine ⟨t, ?_, grants, ?_⟩
    · have running : t.runState = .running := by
        rw [result, takeTest_runState]; exact ready.running
      simp only [exec, execRevoke]
      rw [take_of_passes ready passes, body]
      exact congrArg _ ((congrArg stopProcessor opens).trans (stopProcessor_running running))
    · rw [result, takeTest_grants]
      unfold completedTake completionOf
      rw [← CommandRecord.kindCode_of_kind (kind := .revoke) passes.kind]
      rfl
  · have scan : integrityScan (s.quiet.takeHead rest) = s.quiet.takeHead rest :=
      integrityScan_of_codes fun j used => (others j used).1
    have members : agentMembers (s.quiet.takeHead rest) r.agent = [] :=
      List.eq_nil_iff_forall_not_mem.mpr fun j mem => by
        obtain ⟨used, p, above, owner⟩ := State.mem_agentMembers.mp mem
        exact (others j used).2 p above owner
    have body : revokeAgentBody r (s.quiet.takeHead rest) = (.stays, openOperation .revokeAgent r none []
        (s.quiet.takeHead rest)) := by
      unfold revokeAgentBody
      rw [scan]
      dsimp only
      rw [members]
    simp only [exec, execRevokeAgent]
    rw [take_of_passes ready passes, body]
    exact congrArg _ (endTake_nil (kind := .revokeAgent) ready passes.kind nonempty none)
  · have members : (s.quiet.takeHead rest).nonFree = [] :=
      List.eq_nil_iff_forall_not_mem.mpr fun j mem => State.mem_nonFree.mp mem (empty j)
    have body : purgeBody r (s.quiet.takeHead rest) = (.stays, openOperation .purge r none [] (s.quiet.takeHead rest)) := by
      unfold purgeBody
      rw [members]
    simp only [exec, execPurge]
    rw [take_of_passes ready passes, body]
    exact congrArg _ (endTake_nil (kind := .purge) ready passes.kind nonempty none)

end Sys2Proof.Machine
end

section
/-! Owed notices and the places they take (R64, R65). -/

namespace Sys2Proof.Machine

theorem State.unreserved_le (s : State) : s.unreserved ≤ 32 := Nat.sub_le _ _

/-- The row OWED_NOTICE_POSTED beside an unreserved place. -/
theorem owedNoticePosted_posts {s : State} (running : s.inReset = false) (wf : s.grants.wf = true)
    (owed : ∃ i, (s.grant i).noticeOwed ≠ none) (place : s.responseQueue.length + s.reserved < 32) :
    ∃ u, PostsOwed 1 s.quiet u ∧ exec .owedNoticePosted s = .next (takeTest (settle u)) := by
  have places : 1 ≤ s.quiet.unreserved := by
    show 1 ≤ 32 - (s.responseQueue.length + s.reserved)
    omega
  have first : s.quiet.firstOwed.isNone = false := by
    rw [Option.isNone_eq_false_iff, Option.isSome_iff_ne_none]
    intro none
    obtain ⟨i, hi⟩ := owed
    exact hi (State.firstOwed_eq_none.mp none i)
  have posts := postOwed_posts 1 (s := s.quiet) wf
  rw [Nat.min_eq_left places] at posts
  refine ⟨_, posts, ?_⟩
  simp only [exec, execOwedNoticePosted, happening_of_running running]
  unfold owedNoticePosted
  rw [if_neg]
  rintro (full | none)
  · omega
  · rw [first] at none; exact absurd none (by decide)

/-- A POP beside owed notices. -/
theorem pop_posts {s : State} {head : ResponseRecord} {tail : List ResponseRecord} (v : Word) (running : s.inReset = false)
    (wf : s.grants.wf = true) (owed : ∃ i, (s.grant i).noticeOwed ≠ none) (queue : s.responseQueue = head :: tail) :
    ∃ u, PostsOwed (32 - (tail.length + s.reserved)) { s.quiet with responseQueue := tail } u ∧
      exec (.pop v) s = .next (takeTest (settle u)) := by
  let popped : State := { s.quiet with responseQueue := tail }
  have owes : popped.owesNotice = true := State.owesNotice_iff.mpr owed
  have posts := postOwed_posts 32 (s := popped) wf
  rw [Nat.min_eq_right popped.unreserved_le] at posts
  refine ⟨_, posts, ?_⟩
  have head_queue : s.quiet.responseQueue = head :: tail := queue
  simp only [exec, execPop, happening_of_running running]
  unfold popResponse
  simp only [head_queue]
  rw [if_pos owes]

/-- The posting of the lowest owed notice alone, under a grant that something else still holds, frees nothing (R8, R64). -/
theorem PostsOwed.settled {s u : State} {i : SlotIx} {n : Notice} (posts : PostsOwed 1 s u)
    (owed : (s.grant i).noticeOwed = some n) (low : ∀ j, j < i → (s.grant j).noticeOwed = none)
    (calm : ∀ j, s.eligible j = false) (held : 0 < s.inFlight i ∨ (s.grant i).children ≠ [])
    (nonempty : ∀ (k : RetireIx) op, s.retire[k] = some op → op.members ≠ []) (noBarrier : s.processor.barrierTag = none) :
    settle u = u ∧ (∀ x, u.grant x = if x = i then { s.grant i with noticeOwed := none } else s.grant x) ∧
      u = { s with grants := u.grants, responseQueue := s.responseQueue ++ [.notice n] } := by
  obtain ⟨-, grants, others⟩ := posts
  have one : s.owedSlots.take 1 = [i] := by
    rw [State.owedSlots_eq_cons n (by rw [owed]; simp) low]; rfl
  have frame : u = { s with grants := u.grants, responseQueue := s.responseQueue ++ [.notice n] } := by
    rw [one] at others
    simpa [owed] using others
  have grant (x : SlotIx) : u.grant x = if x = i then { s.grant i with noticeOwed := none } else s.grant x := by
    rw [grants, one]
    by_cases h : x = i
    · subst h; simp
    · simp [h]
  have tracker : u.tracker = s.tracker := by rw [frame]
  have none_eligible (j : SlotIx) : u.eligible j = false := by
    by_cases h : j = i
    · subst h
      have count : u.inFlight j = s.inFlight j := by unfold State.inFlight; rw [tracker]
      by_contra c
      obtain ⟨-, idle, leaf, -⟩ := State.eligible_iff.mp (by simpa using c)
      rw [count] at idle
      rw [grant, if_pos rfl] at leaf
      rcases held with flight | children
      · omega
      · exact children leaf
    · exact (State.eligible_of_grant (by rw [grant, if_neg h]) tracker).trans (calm j)
  refine ⟨settle_of_settled none_eligible ?_ ?_, grant, frame⟩
  · rw [frame]; exact nonempty
  · rw [frame]; exact noBarrier

/-- Settles O17. -/
theorem owedNoticeTakesTheFreedPlace : Obligations.OwedNoticeTakesTheFreedPlace := by
  refine ⟨fun s running wf owed => ⟨owedNoticePosted_posts running wf owed, fun head tail v queue _ =>
    pop_posts v running wf owed queue⟩, ?_⟩
  intro s i n running wf owed low calm held nonempty noBarrier
  have some_owed : ∃ i, (s.grant i).noticeOwed ≠ none := ⟨i, by rw [owed]; simp⟩
  refine ⟨fun place => ?_, fun head tail v queue full => ?_⟩
  · obtain ⟨u, posts, takes⟩ := owedNoticePosted_posts running wf some_owed place
    obtain ⟨settled, grants, frame⟩ := posts.settled owed low calm held nonempty noBarrier
    refine ⟨_, takes, fun x => ?_, ?_⟩
    · rw [takeTest_grant, settled]; exact grants x
    · rw [takeTest_grants, settled]; exact congrArg takeTest frame
  · obtain ⟨u, posts, takes⟩ := pop_posts v running wf some_owed queue
    have one : 32 - (tail.length + s.reserved) = 1 := by
      rw [queue, List.length_cons] at full
      omega
    rw [one] at posts
    obtain ⟨settled, grants, frame⟩ := posts.settled owed low calm held nonempty noBarrier
    refine ⟨_, takes, fun x => ?_, ?_⟩
    · rw [takeTest_grant, settled]; exact grants x
    · rw [takeTest_grants, settled]; exact congrArg takeTest frame

end Sys2Proof.Machine
end

section
/-! A lapse: what it moves, records and posts (R6, R123–R125). -/

namespace Sys2Proof.Machine

theorem GrantState.inUse_iff_live_or_suspended {st : GrantState} : st.inUse = true ↔ st = .live ∨ st = .suspended := by
  cases st <;> simp [GrantState.inUse]

/-! ## The parts of a lapse -/

/-- A lapse moves the slot and its descendants, where they are LIVE or SUSPENDED (R6). -/
def State.lapseMoves (s : State) (i j : SlotIx) : Bool :=
  (s.grant i).state.inUse && (decide (j = i) || (s.ancestors j).contains i) && (s.grant j).state.inUse

theorem State.within_eq (s : State) (i j : SlotIx) : s.within i j = (decide (j = i) || (s.ancestors j).contains i) := by
  unfold State.within
  rw [beq_eq_decide]

theorem lapseDrained_grant (s : State) (i j : SlotIx) : (lapseDrained s i).grant j =
    if j = i then { s.grant i with
      state := if s.lapseMoves i i then .draining else (s.grant i).state
      lease := none }
    else if s.lapseMoves i j then { s.grant j with state := .draining } else s.grant j := by
  have unleased : (s.setGrant i { s.grant i with lease := none }).grant j =
      if j = i then { s.grant i with lease := none } else s.grant j := by
    rw [State.grant_setGrant]
  unfold lapseDrained State.lapseMoves
  by_cases moving : (s.grant i).state.inUse = true
  · rw [if_pos moving, drainSlots_grant, unleased, State.within_eq]
    by_cases same : j = i
    · subst same; simp [moving]
    · simp [same, moving]
  · rw [if_neg moving, unleased]
    by_cases same : j = i
    · subst same; simp [moving]
    · simp [same, moving]

theorem lapseDrained_frame (s : State) (i : SlotIx) : lapseDrained s i = { s with grants := (lapseDrained s i).grants } := by
  unfold lapseDrained
  split <;> rfl

theorem lapseDrained_wf {s : State} (i : SlotIx) (wf : s.grants.wf = true) : (lapseDrained s i).grants.wf = true := by
  unfold lapseDrained
  split
  · exact drainSlots_wf _ _
  · exact State.setGrant_wf i _ wf

/-- A read sets the flag of its slot where it finds a mismatch, and records the error (R18, R160). -/
theorem integrityRead_records (i : SlotIx) (s : State) : integrityRead i s = { s with
    grants := (integrityRead i s).grants
    errors := if s.mismatched i then s.errors.add .integrity i.val else s.errors
    runState := if s.mismatched i ∧ s.config.integrity = .fatal then .stopped else s.runState } := by
  cases found : s.mismatched i with
  | false => rw [integrityRead_of_not_mismatched found]; rfl
  | true =>
    have mismatch := found
    simp only [State.mismatched, Bool.and_eq_true, Bool.not_eq_true'] at mismatch
    rw [integrityRead_of_mismatch mismatch.1 mismatch.2, recordError_integrity]
    by_cases fatal : s.config.integrity = .fatal <;> simp [fatal, State.setGrant]

theorem State.unreserved_eq_zero_iff (s : State) : s.unreserved = 0 ↔ 32 ≤ s.responseQueue.length + s.reserved := by
  unfold State.unreserved
  omega

theorem offerNotice_grant (i : SlotIx) (n : Notice) (s : State) (j : SlotIx) : (offerNotice i n s).grant j =
    if j = i ∧ 32 ≤ s.responseQueue.length + s.reserved then { s.grant i with noticeOwed := some n } else s.grant j := by
  unfold offerNotice
  rw [apply_ite (State.grant · j), State.grant_setGrant]
  by_cases full : s.unreserved = 0
  · simp only [full, s.unreserved_eq_zero_iff.mp full, if_true, and_true]
  · rw [if_neg full, if_neg fun c => full (s.unreserved_eq_zero_iff.mpr c.2)]
    rfl

theorem offerNotice_frame (i : SlotIx) (n : Notice) (s : State) : offerNotice i n s = { s with
    grants := (offerNotice i n s).grants
    responseQueue := if 32 ≤ s.responseQueue.length + s.reserved then s.responseQueue
      else s.responseQueue ++ [.notice n] } := by
  unfold offerNotice
  by_cases full : s.unreserved = 0
  · rw [if_pos full, if_pos (s.unreserved_eq_zero_iff.mp full)]; rfl
  · rw [if_neg full, if_neg (mt s.unreserved_eq_zero_iff.mpr full)]; rfl

theorem offerNotice_wf {s : State} (i : SlotIx) (n : Notice) (wf : s.grants.wf = true) :
    (offerNotice i n s).grants.wf = true := by
  unfold offerNotice
  split
  · exact State.setGrant_wf i _ wf
  · exact wf

/-! ## The lapse -/

theorem lapseMoved_eq {s : State} (wf : s.grants.wf = true) (i : SlotIx) :
    lapseMoved s i = (List.finRange 1024).countP fun j => decide (j ≠ i) && s.lapseMoves i j := by
  unfold lapseMoved
  by_cases moving : (s.grant i).state.inUse = true
  · have same (j : SlotIx) : (j != i && s.within i j && (s.grant j).state.inUse) = (decide (j ≠ i) && s.lapseMoves i j) := by
      unfold State.lapseMoves
      rw [moving, State.within_eq, Bool.true_and, Bool.and_assoc]
      simp [bne, beq_eq_decide]
    rw [if_pos moving, List.countP_eq_length_filter, ← State.slots_filter wf]
    · simp only [same]
    · intro j moves
      simp only [State.lapseMoves, Bool.and_eq_true] at moves
      exact State.ne_free_of_inUse moves.2.2
  · rw [if_neg moving, eq_comm, List.countP_eq_zero]
    intro j _
    simp [State.lapseMoves, moving]

/-- The notice of a lapse carries the values stored before it (R124). -/
theorem lapseNotice_eq {s : State} (wf : s.grants.wf = true) (i : SlotIx) :
    lapseNotice s (integrityRead i (lapseDrained s i)) i =
      { handle := mkHandle i (s.grant i).generation, label := (s.grant i).ownerLabel, grantee := (s.grant i).grantee
        moved := (List.finRange 1024).countP fun j => decide (j ≠ i) && s.lapseMoves i j } := by
  unfold lapseNotice
  rw [lapseMoved_eq wf, integrityRead_grant, lapseDrained_grant, if_pos rfl]

theorem lapseDrained_mismatched (s : State) (i : SlotIx) : (lapseDrained s i).mismatched i = s.mismatched i := by
  unfold State.mismatched
  rw [lapseDrained_grant, if_pos rfl]

/-- The table after the drain and the read of a lapse. -/
theorem lapseRead_grant (s : State) (i j : SlotIx) : (integrityRead i (lapseDrained s i)).grant j =
    if j = i then { s.grant i with
      state := if s.lapseMoves i i then .draining else (s.grant i).state
      lease := none
      damaged := (s.grant i).damaged || s.mismatched i }
    else if s.lapseMoves i j then { s.grant j with state := .draining } else s.grant j := by
  have damage : ((s.grant i).damaged || !(s.grant i).codeMatches) = ((s.grant i).damaged || s.mismatched i) := by
    unfold State.mismatched
    cases (s.grant i).damaged <;> simp
  rw [integrityRead_grant, lapseDrained_grant]
  by_cases same : j = i
  · simp only [same, if_true, decide_true, Bool.true_and, damage]
  · simp only [same, if_false, decide_false, Bool.false_and, Bool.or_false]

theorem lapseGrant_lapses {s : State} (wf : s.grants.wf = true) (i : SlotIx) : LapseOf s i (lapseGrant s i) := by
  let read := integrityRead i (lapseDrained s i)
  have frame : read = { s with
      grants := read.grants
      errors := if s.mismatched i then s.errors.add .integrity i.val else s.errors
      runState := if s.mismatched i ∧ s.config.integrity = .fatal then .stopped else s.runState } := by
    have records := integrityRead_records i (lapseDrained s i)
    rw [lapseDrained_mismatched] at records
    refine records.trans ?_
    unfold read
    rw [lapseDrained_frame]
  have queue : read.responseQueue = s.responseQueue := by rw [frame]
  have reserved : read.reserved = s.reserved := by rw [frame]
  rw [lapseGrant_eq, lapseNotice_eq wf]
  refine ⟨offerNotice_wf i _ (integrityRead_wf (lapseDrained_wf i wf)), fun j => ?_, ?_⟩
  · rw [offerNotice_grant]
    simp only [read] at queue reserved
    rw [queue, reserved, lapseRead_grant, lapseRead_grant]
    by_cases same : j = i
    · rw [if_pos same, if_pos rfl, if_pos same]
      by_cases full : 32 ≤ s.responseQueue.length + s.reserved
      · rw [if_pos ⟨same, full⟩, if_pos (decide_eq_true full)]
        rfl
      · rw [if_neg fun c => full c.2, if_neg (show ¬decide (32 ≤ s.responseQueue.length + s.reserved) = true by simpa using full)]
        rfl
    · rw [if_neg fun c => same c.1, if_neg same, if_neg same]
      rfl
  · rw [offerNotice_frame]
    rw [show integrityRead i (lapseDrained s i) = read from rfl, queue, reserved]
    rw [frame]
    simp only [decide_eq_true_eq]
    rfl

end Sys2Proof.Machine
end

section
/-! The stages of a tick (R121): lapses in turn, drain timeouts in turn, and the end. -/

namespace Sys2Proof.Machine

/-! ## Stage 1 -/

theorem countdown_countsDown (s : State) : CountsDown s (countdown s) where
  canonical := wf_mapGrants _ _
  grants i := by
    have counted : (countdown s).grant i = countLease (s.grant i) := State.grant_updateGrants s (fun _ g => countLease g) i rfl
    rw [counted, countLease]
    exact if_congr GrantState.inUse_iff_live_or_suspended rfl rfl
  others := rfl

/-! ## Stage 2 -/

theorem lapsing_eq (s : State) (i : SlotIx) : lapsing s i =
    decide (((s.grant i).state = .live ∨ (s.grant i).state = .suspended) ∧ (s.grant i).lease = some 0) := by
  rw [lapsing, Bool.decide_and]
  congr 1
  rw [Bool.eq_iff_iff, decide_eq_true_eq]
  exact GrantState.inUse_iff_live_or_suspended

/-- The leases that lapse, out of all slots. -/
theorem slots_filter_lapsing {s : State} (wf : s.grants.wf = true) : s.slots.filter (lapsing s) = s.leasesAtZero := by
  rw [State.slots_filter wf]
  · exact List.filter_congr fun i _ => lapsing_eq s i
  · intro i lapses
    simp only [lapsing, Bool.and_eq_true] at lapses
    exact State.ne_free_of_inUse lapses.1

theorem foldl_lapseGrant_lapses (l : List SlotIx) {s : State} (wf : s.grants.wf = true) :
    LapsesInTurn l s (l.foldl lapseGrant s) := by
  induction l generalizing s with
  | nil => rfl
  | cons i rest ih =>
    have lapses := lapseGrant_lapses wf i
    exact ⟨lapseGrant s i, lapses, ih lapses.canonical⟩

theorem LapseOf.retire {s u : State} {i : SlotIx} (h : LapseOf s i u) : u.retire = s.retire := by
  rw [h.effect.2]

/-- Lapses leave the open operations and their timers. -/
theorem LapsesInTurn.retire {l : List SlotIx} {s u : State} (h : LapsesInTurn l s u) : u.retire = s.retire := by
  induction l generalizing s with
  | nil => rw [show u = s from h]
  | cons i rest ih =>
    obtain ⟨v, lapse, later⟩ := h
    exact (ih later).trans lapse.retire

/-! ## Stage 3 -/

theorem timedOut_eq (s : State) (k : RetireIx) :
    timedOut s k = (s.retire[k]).any fun op => decide (op.drainRemaining = some 0) := by
  unfold timedOut
  cases s.retire[k] <;> rfl

theorem filter_timedOut (s : State) : (allBelow 8).filter (timedOut s) = s.timersAtZero := by
  rw [allBelow_eq_finRange]
  exact List.filter_congr fun k _ => timedOut_eq s k

theorem Entry.issuedUnder_eq (e : Entry) (members : List SlotIx) :
    e.issuedUnder members = decide (e.state = .issued ∧ e.grant ∈ members) := by
  unfold Entry.issuedUnder
  rw [Bool.decide_and, List.contains_eq_mem]

theorem timeoutRetire_eq {s : State} {k : RetireIx} {op : RetireOp} (slot : s.retire[k] = some op) :
    timeoutRetire s k = timeoutState s k op := by
  have under : (fun e : Entry => e.issuedUnder op.members) = fun e => decide (e.state = .issued ∧ e.grant ∈ op.members) :=
    funext fun e => e.issuedUnder_eq op.members
  unfold timeoutState
  dsimp only
  cases hit : s.tracker.toList.any fun e => decide (e.state = .issued ∧ e.grant ∈ op.members) with
  | false =>
    have kept : s.tracker.map (fun e => if decide (e.state = .issued ∧ e.grant ∈ op.members) = true
        then { state := .abandoned, agent := 0, tag := 0, grant := 0, kind := e.kind, address := 0, length := e.length }
        else e) = s.tracker := by
      ext1 j hj
      have out := List.any_eq_false.mp hit s.tracker[j] (by simp)
      rw [Vector.getElem_map, if_neg out]
    rw [timeoutRetire_of_none_under slot (by rw [under]; exact hit), kept]
    simp only [Bool.or_false, Bool.false_eq_true, false_and, if_false]
    rfl
  | true =>
    rw [timeoutRetire_of_some_under slot (by rw [under]; exact hit), under]
    simp only [Bool.or_true, true_and, if_true]
    rfl

theorem foldl_timeoutRetire_eq (ks : List RetireIx) (s : State) : ks.foldl timeoutRetire s = timeoutsInTurn ks s := by
  induction ks generalizing s with
  | nil => rfl
  | cons k rest ih =>
    rw [List.foldl_cons, ih]
    cases slot : s.retire[k] with
    | none => simp only [timeoutsInTurn, timeoutRetire, slot]
    | some op => rw [timeoutRetire_eq slot]; simp only [timeoutsInTurn, slot]

theorem foldl_timeoutRetire_out (ks : List RetireIx) (s : State) : (ks.foldl timeoutRetire s).out = s.out := by
  induction ks generalizing s with
  | nil => rfl
  | cons k rest ih => rw [List.foldl_cons, ih, timeoutRetire_frame]

theorem State.reaches_eq (s : State) (ks : List RetireIx) (e : Entry) :
    s.reaches ks e = ks.any fun k => e.issuedUnder (s.membersOf k) := by
  have under (k : RetireIx) : ((s.retire[k]).any fun op => decide (e.grant ∈ op.members)) = (s.membersOf k).contains e.grant := by
    unfold State.membersOf
    cases s.retire[k] with
    | none => rfl
    | some op => rw [Option.any_some, List.contains_eq_mem]
  unfold State.reaches Entry.issuedUnder
  simp only [under]
  cases decide (e.state = .issued) <;> simp

/-- The timeouts of a tick, with their answers (R113, R114). -/
theorem timeoutRetires_eq (s : State) : timeoutRetires s.timersAtZero s = stageThree s := by
  unfold timeoutRetires stageThree State.respondAll State.answersTo
  rw [foldl_timeoutRetire_out, foldl_timeoutRetire_eq]
  simp only [← State.reaches_eq]

/-! ## The end of a tick -/

theorem settle_clock (s : State) : (settle s).clock = s.clock := by
  have freed : (freeAll s).clock = s.clock := by rw [freeAll_frame]
  have completed (u : State) : (completeRetires u).clock = u.clock := by
    rw [completeRetires_eq]
    split
    · rfl
    · rw [takeTest_frame]; rfl
  have ended (u : State) : (completeBarrier u).clock = u.clock := by
    unfold completeBarrier
    split
    · rfl
    · split
      · rfl
      · split
        · rw [takeTest_frame]; rfl
        all_goals rfl
  unfold settle
  rw [ended, completed, freed]

theorem leaseTick_eq (s : State) : leaseTick s = tickEnd (tickStages s) := by
  unfold leaseTick tickEnd LeaseClock.tick
  dsimp only
  rw [settle_clock]

/-- Settles O20. -/
theorem lapseDrainsAndNotifies : Obligations.LapseDrainsAndNotifies := by
  intro s running wf
  refine ⟨fun i used due => ?_, ?_⟩
  · refine ⟨_, lapseGrant_lapses (s := s.quiet) wf i, ?_⟩
    simp only [exec, execLapse, happening_of_running running]
    unfold lapse
    rw [if_pos (show (s.quiet.grant i).state ≠ .free ∧ (s.quiet.grant i).lease = some 0 from ⟨used, due⟩)]
  · have counts := countdown_countsDown s.quiet
    let counted := countdown s.quiet
    -- The list is kept opaque: its 1024 cases would otherwise be unfolded.
    obtain ⟨l, due⟩ : ∃ l, l = counted.leasesAtZero := ⟨_, rfl⟩
    have lapses := foldl_lapseGrant_lapses l (s := counted) counts.canonical
    have timers : (allBelow 8).filter (timedOut counted) = (l.foldl lapseGrant counted).timersAtZero := by
      rw [filter_timedOut]
      unfold State.timersAtZero
      rw [lapses.retire]
    have stages : tickStages s.quiet = stageThree (l.foldl lapseGrant counted) := by
      rw [← timeoutRetires_eq, ← timers, due, ← slots_filter_lapsing (s := counted) counts.canonical]
      rfl
    refine ⟨counted, l.foldl lapseGrant counted, counts, ?_, ?_⟩
    · rw [← due]
      exact lapses
    · simp only [exec, execLeaseTick, happening_of_running running]
      rw [leaseTick_eq, stages]

end Sys2Proof.Machine
end

section
/-! What a reset holds back, the release, and presentations (R22, R40, R57, R78, R130, R157, R176, R177). -/

namespace Sys2Proof.Machine

/-! ## In reset -/

/-- Settles O3. -/
theorem nothingHappensInReset : Obligations.NothingHappensInReset := by
  intro c s inReset notPowerOn notHardware notRelease notAsserted notDeasserted
  cases c with
  | powerOnReset => exact absurd rfl notPowerOn
  | hardwareReset => exact absurd rfl notHardware
  | resetRelease => exact absurd rfl notRelease
  | csAsserted => exact absurd rfl notAsserted
  | csDeasserted => exact absurd rfl notDeasserted
  | _ => exact happening_in_reset inReset

/-- Settles O6. -/
theorem releaseAndTheStateAfterReset : Obligations.ReleaseAndTheStateAfterReset := by
  refine ⟨fun s inReset => ?_, fun s running => ?_, fun s deasserted undrawn noneWaiting => ⟨_, rfl, ?_⟩⟩
  · show Host.Outcome.next (if s.inReset then releaseReset s.quiet else s.quiet) = _
    rw [if_pos inReset]
    rfl
  · show Host.Outcome.next (if s.inReset then releaseReset s.quiet else s.quiet) = _
    rw [if_neg (by simp [running])]
  · show Host.Outcome.next (releaseReset (inResetState [] s).quiet) = _
    unfold releaseReset inResetState State.quiet
    simp only [deasserted, undrawn, noneWaiting]
    rfl

/-! ## Presentations -/

/-- Settles O7. -/
theorem presentationFillsAnEmptyLane : Obligations.PresentationFillsAnEmptyLane := by
  refine ⟨fun s a q running => ?_, fun s a => ?_⟩
  · have presents : exec (.requestPresented a q) s = .next (presentRequest a q s.quiet) := happening_of_running running
    have lane : s.quiet.lanes[a] = s.lanes[a] := rfl
    rw [presents, presentRequest, lane]
    refine ⟨fun empty => ?_, fun w waiting => ?_⟩
    · rw [empty]; rfl
    · rw [waiting]
  · simp only [laneReady, Bool.and_eq_true, Bool.not_eq_true', Option.isNone_iff_eq_none]

end Sys2Proof.Machine
end

section
/-! The takes of the lane arbiter (R26, R28), and the request that passes the eleven checks (R29, R36, R44, R45). -/

namespace Sys2Proof.Machine

/-! ## A request that passes -/

/-- Base times 256 plus offset, computed at the width of an address (R36). -/
theorem translate_eq (base offset : BitVec 32) : translate base offset = BitVec.ofNat 40 (base.toNat * 256 + offset.toNat) := by
  unfold translate
  bv_omega

/-- What a request passes at all eleven checks (R30–R35). -/
structure PassesChecks (s : State) (a : AgentIx) (q : Request) : Prop where
  running    : s.runState = .running
  admitted   : s.agents[a].state = .active ∧ s.agents[a].hold = false
  kind       : q.kind = .read ∨ q.kind = .write
  nonzero    : q.length ≠ 0
  live       : (s.grant (handleSlot q.handle)).state = .live
  generation : (s.grant (handleSlot q.handle)).generation = handleGeneration q.handle
  unbroken   : ∀ p ∈ s.ancestors (handleSlot q.handle), (s.grant p).state ≠ .suspended
  grantee    : (s.grant (handleSlot q.handle)).grantee = a
  allowed    : (s.grant (handleSlot q.handle)).rights.allows q.kind = true
  inside     : q.offset.toNat + q.length.toNat ≤ (s.grant (handleSlot q.handle)).length * 256

theorem passesChecks {s : State} {a : AgentIx} {q : Request} (passes : firstFailing (elevenChecks s a q) = none) :
    PassesChecks s a q := by
  simp only [firstFailing_eq_none, elevenChecks, List.mem_cons, List.not_mem_nil, or_false, forall_eq_or_imp, forall_eq,
    Bool.or_eq_false_iff, decide_eq_false_iff_not, not_not, not_or, not_lt, Bool.not_eq_false', List.any_eq_false,
    decide_eq_true_eq] at passes
  obtain ⟨running, ⟨active, notHeld⟩, ⟨⟨⟨nonzero, -⟩, not2⟩, not3⟩, -, ⟨used, generation⟩, -, notDraining,
    ⟨notSuspended, unbroken⟩, grantee, allowed, inside⟩ := passes
  refine ⟨?_, ⟨active, notHeld⟩, ?_, nonzero, ?_, generation, unbroken, grantee, ?_, inside⟩
  · cases state : s.runState with
    | running => rfl
    | stopped => exact absurd state running
  · cases kind : q.kind with
    | read => exact .inl rfl
    | write => exact .inr rfl
    | invalid2 => exact absurd kind not2
    | invalid3 => exact absurd kind not3
  · cases state : (s.grant (handleSlot q.handle)).state with
    | live => rfl
    | free => exact absurd state used
    | suspended => exact absurd state notSuspended
    | draining => exact absurd state notDraining
  · exact allowed

/-- A take that passes: the request goes to the tracker (R28, R29, R36). -/
theorem takeLane_of_passes {a : AgentIx} {q : Request} {s : State} (passes : firstFailing (elevenChecks s a q) = none) :
    takeLane a q s = stopProcessor (issueAccess a q (s.taking a)) := by
  have check : accessCheck a q (s.taking a) = (none, s.taking a) := by
    rw [accessCheck_eq, show elevenChecks (s.taking a) a q = elevenChecks s a q from rfl, passes]
    rfl
  unfold takeLane
  dsimp only
  rw [show ({ s.setLane a none with lanePointer := a } : State) = s.taking a from rfl, check]

theorem issueAccess_of_firstEmpty {s : State} {k : EntryIx} (first : s.firstEmpty = some k) (a : AgentIx) (q : Request) :
    issueAccess a q s = { s.setEntry k (issuedEntry a q s) with
      out := { s.out with requests := s.out.requests ++ [memRequestOf k (issuedEntry a q s) q.data] } } := by
  unfold issueAccess
  rw [first]

/-- A takeable lane's request passes only where an entry is EMPTY (R26). -/
theorem NextTake.firstEmpty {s : State} {a : AgentIx} {q : Request} (next : NextTake s a q) (passes : PassesChecks s a q) :
    ∃ k, s.firstEmpty = some k := by
  refine Option.isSome_iff_exists.mp (State.firstEmpty_isSome.mpr ?_)
  obtain ⟨-, (stopped | inactive | held) | ⟨-, empty⟩⟩ := next.takeable
  · exact absurd (stopped.symm.trans passes.running) (by decide)
  · exact absurd passes.admitted.1 inactive
  · exact absurd (held.symm.trans passes.admitted.2) (by decide)
  · exact empty

/-- Settles O9. -/
theorem passingTakeIssues : Obligations.PassingTakeIssues := by
  intro s a q next passes
  have passed := passesChecks passes
  obtain ⟨k, first⟩ := next.firstEmpty passed
  obtain ⟨empty, lowest⟩ := State.firstEmpty_eq_some.mp first
  refine ⟨k, directionOf q.kind, empty, lowest, ?_, ?_⟩
  · rcases passed.kind with kind | kind <;> simp [kind, directionOf]
  · have found : (s.quiet.taking a).firstEmpty = some k := first
    rw [execAccessTake_eq next, takeLane_of_passes (s := s.quiet) passes, issueAccess_of_firstEmpty found,
      stopProcessor_running (by exact passed.running)]
    dsimp only
    rw [← translate_eq]
    rfl

/-! ## The lane that is taken -/

/-- A fault answers its lane, and may change the agent's fault slot and record; nothing else. -/
theorem faultAccess_frame (a : AgentIx) (q : Request) (f : FaultKind) (s : State) : faultAccess a q f s = { s with
    out := { s.out with responses := s.out.responses ++ [{ lane := a, tag := q.tag, outcome := .fault f }] }
    faultSlots := (faultAccess a q f s).faultSlots
    agents := (faultAccess a q f s).agents } := by
  unfold faultAccess
  dsimp only
  split
  · rw [offerFault_eq]; rfl
  · rfl

/-- The checks of a request change the table, the error record and the run state at most, by the read of check 6 (R18). -/
theorem accessAnswer_frame (i : SlotIx) (s : State) (f : Option FaultKind) : (accessAnswer i s f).2 = { s with
    grants := (accessAnswer i s f).2.grants
    errors := (accessAnswer i s f).2.errors
    runState := (accessAnswer i s f).2.runState } := by
  unfold accessAnswer
  split
  · exact integrityRead_frame i s
  · rfl

theorem stopProcessor_frame (s : State) : stopProcessor s = { s with processor := (stopProcessor s).processor } := by
  unfold stopProcessor
  split <;> rfl

/-- Settles O8. -/
theorem arbiterTakesTheFirstTakeableLane : Obligations.ArbiterTakesTheFirstTakeableLane := by
  intro s a q next
  cases outcome : firstFailing (elevenChecks s a q) with
  | none =>
    obtain ⟨k, d, -, -, -, takes⟩ := passingTakeIssues s a q next outcome
    exact ⟨_, takes, rfl, rfl⟩
  | some f =>
    have fails : firstFailing (elevenChecks s.quiet a q) = some f := outcome
    refine ⟨_, execAccessTake_eq next, ?_⟩
    rw [takeLane_of_fails fails, stopProcessor_frame, faultAccess_frame, accessAnswer_frame]
    exact ⟨rfl, rfl⟩

end Sys2Proof.Machine
end

section
/-! Drain timeouts (R52, R112–R114, R121). -/

namespace Sys2Proof.Machine

/-- The row DRAIN_TIMEOUT on an operation whose timer has run out. -/
theorem timeoutRetires_single {s : State} {k : RetireIx} {op : RetireOp} (slot : s.retire[k] = some op) :
    timeoutRetires [k] s = { timeoutState s k op with
      out := { s.out with
        responses := s.out.responses ++
          (s.tracker.toList.filter fun e => decide (e.state = .issued ∧ e.grant ∈ op.members)).map
            fun e => { lane := e.agent, tag := e.tag, outcome := .abandoned } } } := by
  have members : s.membersOf k = op.members := by unfold State.membersOf; rw [slot]
  unfold timeoutRetires State.respondAll State.answersTo
  simp only [List.foldl_cons, List.foldl_nil, List.any_cons, List.any_nil, Bool.or_false, members, Entry.issuedUnder_eq,
    timeoutRetire_eq slot]
  rfl

/-- Where no lease of a grant in use stands at 1 or 0, none stands at 0 after stage 1 (R122). -/
theorem CountsDown.leasesAtZero {s u : State} (counts : CountsDown s u)
    (noneDue : ∀ i, (s.grant i).state.inUse = true → (s.grant i).lease ≠ some 1 ∧ (s.grant i).lease ≠ some 0) :
    u.leasesAtZero = [] := by
  unfold State.leasesAtZero
  refine List.filter_eq_nil_iff.mpr fun i _ lapses => ?_
  obtain ⟨inUse, zero⟩ := of_decide_eq_true lapses
  rw [counts.grants i] at inUse zero
  by_cases counted : (s.grant i).state = .live ∨ (s.grant i).state = .suspended
  · rw [if_pos counted] at zero
    obtain ⟨n, lease, fell⟩ := Option.map_eq_some_iff.mp zero
    obtain ⟨notOne, notZero⟩ := noneDue i (GrantState.inUse_iff.mpr counted)
    rcases Nat.le_one_iff_eq_zero_or_eq_one.mp (Nat.sub_eq_zero_iff_le.mp fell) with rfl | rfl
    · exact notZero lease
    · exact notOne lease
  · rw [if_neg counted] at inUse
    exact counted inUse

/-- A tick in which stage 1 brings no lease to 0 goes on from it to the drain timeouts (R121). -/
theorem leaseTick_of_none_due {s : State} (none : (countdown s).leasesAtZero = []) :
    leaseTick s = tickEnd (stageThree (countdown s)) := by
  have lapsing : (countdown s).slots.filter (lapsing (countdown s)) = [] :=
    (slots_filter_lapsing (countdown_countsDown s).canonical).trans none
  rw [leaseTick_eq, tickStages, lapsing, List.foldl_nil, filter_timedOut, timeoutRetires_eq]

/-- Settles O18. -/
theorem drainTimeoutAbandons : Obligations.DrainTimeoutAbandons := by
  refine ⟨fun s k op running slot due => ?_, fun s running wf noneDue => ?_⟩
  · have held : s.quiet.retire[k] = some op := slot
    have spent : timedOut s.quiet k = true := by rw [timedOut_eq, held]; simp [due]
    have times : exec (.drainTimeout k) s = .next (drainTimeout k s.quiet) := happening_of_running running
    rw [times, drainTimeout, if_pos spent, timeoutRetires_single held]
    rfl
  · have ticks : exec .leaseTick s = .next (leaseTick s.quiet) := happening_of_running running
    have counts := countdown_countsDown s.quiet
    exact ⟨_, counts, ticks.trans (congrArg _ (leaseTick_of_none_due (counts.leasesAtZero noneDue)))⟩

end Sys2Proof.Machine
end

section
/-! What the agent and memory ports hold and send: the lanes, the tracker, the responses and the memory requests. Every
operation beside takes, completions, timeouts and resets leaves them alone. -/

namespace Sys2Proof.Machine

/-! ## The ports -/

/-- The lanes, the tracker, and what the agent and memory ports sent during the command. -/
structure Ports where
  lanes     : Vector (Option Request) 16
  tracker   : Vector Entry 64
  responses : List LaneResponse
  requests  : List MemRequest

/-- The ports of a state. -/
def State.ports (s : State) : Ports := ⟨s.lanes, s.tracker, s.out.responses, s.out.requests⟩

@[simp] theorem State.postReserved_ports (s : State) (c : Completion) : (s.postReserved c).ports = s.ports := rfl
@[simp] theorem State.setProc_ports (s : State) (p : ProcState) : (s.setProc p).ports = s.ports := rfl
@[simp] theorem State.takeHead_ports (s : State) (rest : List CommandRecord) : (s.takeHead rest).ports = s.ports := rfl
@[simp] theorem State.setRetire_ports (s : State) (k : RetireIx) (op : Option RetireOp) :
    (s.setRetire k op).ports = s.ports := rfl
@[simp] theorem answerWith_ports (b : List Byte) (r : Byte) (d : List Byte) (s : State) :
    (answerWith b r d s).ports = s.ports := rfl
@[simp] theorem drainSlots_ports (which : SlotIx → Bool) (s : State) : (drainSlots which s).ports = s.ports := rfl
@[simp] theorem purgeEffects_ports (s : State) : (purgeEffects s).ports = s.ports := rfl
@[simp] theorem clearPushRefused_ports (s : State) : (clearPushRefused s).ports = s.ports := rfl

/-! ## The shared operations -/

@[simp] theorem takeTest_ports (s : State) : (takeTest s).ports = s.ports := by rw [takeTest_frame]; rfl
@[simp] theorem stopProcessor_ports (s : State) : (stopProcessor s).ports = s.ports := by rw [stopProcessor_frame]; rfl
@[simp] theorem integrityRead_ports (i : SlotIx) (s : State) : (integrityRead i s).ports = s.ports := by
  rw [integrityRead_frame]; rfl
@[simp] theorem freeAll_ports (s : State) : (freeAll s).ports = s.ports := by rw [freeAll_frame]; rfl
@[simp] theorem offerFault_ports (a : AgentIx) (f : HeldFault) (s : State) : (offerFault a f s).ports = s.ports := by
  rw [offerFault_eq]; rfl
@[simp] theorem offerNotice_ports (i : SlotIx) (n : Notice) (s : State) : (offerNotice i n s).ports = s.ports := by
  rw [offerNotice_frame]; rfl
@[simp] theorem lapseGrant_ports (s : State) (i : SlotIx) : (lapseGrant s i).ports = s.ports := by
  rw [lapseGrant_eq, offerNotice_ports, integrityRead_ports, lapseDrained_frame]; rfl

theorem foldl_ports {α : Type} {f : State → α → State} (h : ∀ s x, (f s x).ports = s.ports) (l : List α) (s : State) :
    (l.foldl f s).ports = s.ports := by
  induction l generalizing s with
  | nil => rfl
  | cons x rest ih => exact (ih _).trans (h s x)

@[simp] theorem integrityScan_ports (s : State) : (integrityScan s).ports = s.ports :=
  foldl_ports (fun s i => integrityRead_ports i s) _ s

@[simp] theorem completeRetire_ports (k : RetireIx) (op : RetireOp) (s : State) : (completeRetire k op s).ports = s.ports := by
  unfold completeRetire processorAfterRetire
  split <;> split <;> simp

@[simp] theorem completeIfEmpty_ports (s : State) (k : RetireIx) : (completeIfEmpty s k).ports = s.ports := by
  unfold completeIfEmpty
  split
  · rfl
  · split
    · exact completeRetire_ports _ _ s
    · rfl

@[simp] theorem completeRetires_ports (s : State) : (completeRetires s).ports = s.ports := foldl_ports completeIfEmpty_ports _ s

@[simp] theorem completeBarrier_ports (s : State) : (completeBarrier s).ports = s.ports := by
  unfold completeBarrier
  split
  · rfl
  · split
    · rfl
    · split
      · rw [takeTest_ports]; rfl
      all_goals rfl

@[simp] theorem settle_ports (s : State) : (settle s).ports = s.ports := by simp [settle]

theorem postOwed_ports (n : Nat) (s : State) : (postOwed n s).ports = s.ports := by
  induction n generalizing s with
  | zero => rfl
  | succ n ih =>
    unfold postOwed
    split
    · rfl
    · split
      · rfl
      · split
        · rfl
        · exact (ih _).trans rfl

/-! ## Takes of the command processor -/

@[simp] theorem endTake_ports (r : CommandRecord) (v : Verdict) (s : State) : (endTake r v s).ports = s.ports := by
  cases v with
  | stays => exact stopProcessor_ports s
  | completes st h res => by_cases halts : st.halts = true <;> simp [endTake, halts]

theorem takeCommand_ports {wanted : Option CommandKind} {body : CommandRecord → State → Verdict × State} {s : State}
    (h : ∀ r u, (body r u).2.ports = u.ports) : (takeCommand wanted body s).ports = s.ports := by
  unfold takeCommand
  split
  · rfl
  · split
    · split
      · rw [endTake_ports]; rfl
      · rw [endTake_ports, h]; rfl
    · rfl

theorem allocateChecked_ports (r : CommandRecord) (base : BitVec 32) (parent : Option SlotIx) (depth : Nat) (s : State) :
    (allocateChecked r base parent depth s).2.ports = s.ports := by
  unfold allocateChecked
  split
  · rfl
  · split
    · rfl
    · dsimp only
      rw [allocate_frame]; rfl

theorem createBody_ports (r : CommandRecord) (s : State) : (createBody r s).2.ports = s.ports := by
  unfold createBody
  split
  · rfl
  · split
    · rfl
    · split
      · rfl
      · exact allocateChecked_ports r _ _ _ s

theorem deriveFrom_ports (p : SlotIx) (r : CommandRecord) (s : State) : (deriveFrom p r s).2.ports = s.ports := by
  unfold deriveFrom
  dsimp only
  split_ifs
  · rfl
  · rfl
  · rfl
  · rfl
  · rfl
  · exact allocateChecked_ports r _ _ _ s

theorem deriveBody_ports (r : CommandRecord) (s : State) : (deriveBody r s).2.ports = s.ports := by
  unfold deriveBody
  split
  · rfl
  · split
    · rfl
    · rw [deriveFrom_ports, integrityRead_ports]

theorem modifyTarget_ports (i : SlotIx) (r : CommandRecord) (s : State) : (modifyTarget i r s).2.ports = s.ports := by
  unfold modifyTarget
  dsimp only
  split_ifs <;> rfl

theorem modifyBody_ports (r : CommandRecord) (s : State) : (modifyBody r s).2.ports = s.ports := by
  unfold modifyBody
  split
  · rfl
  · split
    · rfl
    · rw [modifyTarget_ports, integrityRead_ports]

theorem queryBody_ports (r : CommandRecord) (s : State) : (queryBody r s).2.ports = s.ports := by
  unfold queryBody
  split
  · exact integrityRead_ports _ s
  · rfl

theorem openOperation_ports (kind : RetireKind) (r : CommandRecord) (target : Option Handle) (members : List SlotIx)
    (s : State) : (openOperation kind r target members s).ports = s.ports := by
  unfold openOperation
  split
  · rfl
  · rename_i k _
    have drained (u : State) : (drainMembers members u).ports = u.ports := by
      unfold drainMembers
      split <;> simp
    have completed (u : State) : (completeTakes k u).ports = u.ports := by
      rw [completeTakes_eq_foldl]
      exact foldl_ports completeIfEmpty_ports _ u
    have ended (u : State) : (afterOpening kind k u).ports = u.ports := by
      unfold afterOpening
      split <;> simp
    rw [ended, completed, drained, State.setRetire_ports]

theorem revokeBody_ports (r : CommandRecord) (s : State) : (revokeBody r s).2.ports = s.ports := by
  unfold revokeBody
  split
  · exact (openOperation_ports _ _ _ _ _).trans (integrityRead_ports _ s)
  · rfl

theorem revokeAgentBody_ports (r : CommandRecord) (s : State) : (revokeAgentBody r s).2.ports = s.ports :=
  (openOperation_ports _ _ _ _ _).trans (integrityScan_ports s)

theorem purgeBody_ports (r : CommandRecord) (s : State) : (purgeBody r s).2.ports = s.ports := openOperation_ports _ _ _ _ s

theorem barrierBody_ports (r : CommandRecord) (s : State) : (barrierBody r s).2.ports = s.ports := by
  unfold barrierBody
  split <;> rfl

theorem agentSetBody_ports (r : CommandRecord) (s : State) : (agentSetBody r s).2.ports = s.ports := by
  unfold agentSetBody
  split_ifs <;> rfl

theorem moveAgent_ports (source target : AgentState) (r : CommandRecord) (s : State) :
    (moveAgent source target r s).2.ports = s.ports := by
  unfold moveAgent
  split <;> rfl

theorem excludeSetBody_ports (r : CommandRecord) (s : State) : (excludeSetBody r s).2.ports = s.ports := by
  have enabled (u : State) : (enableRange r u).2.ports = u.ports := by
    unfold enableRange
    split <;> rfl
  unfold excludeSetBody
  split_ifs
  · rfl
  · rfl
  · rfl
  · rw [enabled, integrityScan_ports]
  · rfl

theorem freezeBody_ports (r : CommandRecord) (s : State) : (freezeBody r s).2.ports = s.ports := by
  unfold freezeBody
  split_ifs <;> rfl

theorem configureBody_ports (r : CommandRecord) (s : State) : (configureBody r s).2.ports = s.ports := by
  unfold configureBody
  split_ifs <;> rfl

/-! ## Draining and leases -/

theorem freeing_ports (i : SlotIx) (s : State) : (freeing i s).ports = s.ports := by
  unfold freeing
  split
  · exact settle_ports s
  · rfl

theorem retireCompletion_ports (k : RetireIx) (s : State) : (retireCompletion k s).ports = s.ports := by
  unfold retireCompletion
  split
  · rfl
  · split
    · rw [completeBarrier_ports, completeRetire_ports]
    · rfl

theorem lapse_ports (i : SlotIx) (s : State) : (lapse i s).ports = s.ports := by
  unfold lapse
  split
  · simp
  · rfl

theorem owedNoticePosted_ports (s : State) : (owedNoticePosted s).ports = s.ports := by
  unfold owedNoticePosted
  split
  · rfl
  · rw [takeTest_ports, settle_ports, postOwed_ports]

/-! ## Host writes -/

theorem pushCommand_ports (s : State) : (pushCommand s).ports = s.ports := by
  unfold pushCommand
  dsimp only
  split_ifs
  · rfl
  · rw [takeTest_ports]; rfl
  · rfl

theorem popResponse_ports (s : State) : (popResponse s).ports = s.ports := by
  unfold popResponse
  split
  · rfl
  · dsimp only
    split
    · rw [takeTest_ports, settle_ports, postOwed_ports]; rfl
    · rw [takeTest_ports]; rfl

theorem resumeAction_ports (s : State) : (resumeAction s).ports = s.ports := by
  unfold resumeAction
  split
  · simp
  · rfl

theorem discardAction_ports (s : State) : (discardAction s).ports = s.ports := by
  unfold discardAction
  split_ifs
  · simp
  · rfl
  · rfl

theorem discardRemoval_ports (s : State) : (discardRemoval s).ports = s.ports := by
  unfold discardRemoval
  split
  · rfl
  · dsimp only
    split_ifs
    · rw [takeTest_ports]; rfl
    · rfl
    · rfl

theorem acknowledgeFault_ports (v : Word) (s : State) : (acknowledgeFault v s).ports = s.ports := by
  unfold acknowledgeFault
  split <;> rfl

theorem selectFault_ports (v : Word) (s : State) : (selectFault v s).ports = s.ports := by
  unfold selectFault
  split <;> rfl

/-! ## The service port -/

theorem judgeAgentRead_ports (b : Byte) (s : State) : (judgeAgentRead b s).ports = s.ports := by
  unfold judgeAgentRead
  split <;> rfl

theorem judgeGrantRead_ports (hi lo : Byte) (s : State) : (judgeGrantRead hi lo s).ports = s.ports := by
  have read (i : SlotIx) : (grantReadCheck i s).ports = s.ports := by
    unfold grantReadCheck
    split
    · rfl
    · exact integrityRead_ports i s
  unfold judgeGrantRead
  split
  · rfl
  · split
    · rfl
    · rw [stopProcessor_ports, answerWith_ports, read]

theorem judgeHold_ports (opcode : Byte) (value : Bool) (b : Byte) (s : State) :
    (judgeHold opcode value b s).ports = s.ports := by
  unfold judgeHold
  split <;> rfl

theorem judgedAfter_ports {received : List Byte} {judge : State → State} {s : State} (h : (judge s).ports = s.ports) :
    (judgedAfter received judge s).ports = s.ports := by
  unfold judgedAfter
  split
  · exact h
  · rfl

theorem grantRead_ports (lo : Byte) (s : State) : (grantRead lo s).ports = s.ports := by
  unfold grantRead
  split
  · rfl
  · exact judgeGrantRead_ports _ lo s

theorem commandByte_ports (b : Byte) (s : State) : (commandByte b s).ports = s.ports := by
  unfold commandByte
  split
  · split <;> rfl
  · split
    · exact judgeAgentRead_ports b s
    · exact judgeHold_ports _ _ b s
    · exact judgeHold_ports _ _ b s
    · rfl
  · exact judgeGrantRead_ports _ b s

theorem receiveByte_ports (b : Byte) (s : State) : (receiveByte b s).ports = s.ports := by
  unfold receiveByte
  split
  · rfl
  · exact commandByte_ports b s
  · unfold answerByte
    split <;> rfl
  · rfl

end Sys2Proof.Machine
end

section
/-! The account of the requests: each request owed an answer stays owed until one response goes out with its tag, and no
command but a take sends a memory request (R24, R25, R43, R45, R55). -/

namespace Sys2Proof.Machine

/-! ## What is owed and what is answered -/

/-- The tag that an entry owes an agent (R25). -/
def Entry.owes (a : AgentIx) (e : Entry) : Option (BitVec 4) := if e.state = .issued ∧ e.agent = a then some e.tag else none

/-- The tags that the entries owe an agent. -/
def State.entryTags (s : State) (a : AgentIx) : List (BitVec 4) := s.tracker.toList.filterMap (Entry.owes a)

/-- The tag that the lane of an agent owes it. -/
def State.laneTags (s : State) (a : AgentIx) : List (BitVec 4) := s.lanes[a].toList.map Request.tag

/-- The tags of responses on a lane. -/
def tagsOn (a : AgentIx) (rs : List LaneResponse) : List (BitVec 4) := (rs.filter fun r => r.lane == a).map LaneResponse.tag

theorem State.owedTags_eq (s : State) (a : AgentIx) : s.owedTags a = s.entryTags a ++ s.laneTags a := by
  unfold State.owedTags State.entryTags State.laneTags
  congr 1
  rw [← List.filterMap_eq_map, List.filterMap_filter]
  refine List.filterMap_congr fun e _ => ?_
  simp [Entry.owes]

@[simp] theorem tagsOn_append (a : AgentIx) (rs rs' : List LaneResponse) : tagsOn a (rs ++ rs') = tagsOn a rs ++ tagsOn a rs' := by
  simp [tagsOn]

/-- A response on a lane, for that lane's agent. -/
theorem tagsOn_single (a b : AgentIx) (tag : BitVec 4) (o : LaneOutcome) :
    tagsOn a [{ lane := b, tag := tag, outcome := o }] = (if b = a then some tag else none).toList := by
  by_cases h : b = a <;> simp [tagsOn, h]

theorem tagsOn_laneResets (s : State) (a : AgentIx) : tagsOn a (laneResets s) = s.laneTags a := by
  unfold tagsOn State.laneTags
  rw [laneResets_lane, List.map_map]
  rfl

/-- What is owed an agent, with what the happening has answered it so far. -/
def State.account (s : State) (a : AgentIx) : List (BitVec 4) := s.entryTags a ++ s.laneTags a ++ tagsOn a s.out.responses

/-- Work of a command that keeps every agent's account and sends no memory request. -/
structure Accounts (s t : State) : Prop where
  requests : t.out.requests = s.out.requests
  account  : ∀ a, (t.account a).Perm (s.account a)

theorem State.account_congr {s t : State} (h : t.ports = s.ports) : t.account = s.account := by
  simp only [State.ports, Ports.mk.injEq] at h
  obtain ⟨lanes, tracker, responses, -⟩ := h
  funext a
  unfold State.account State.entryTags State.laneTags
  rw [lanes, tracker, responses]

theorem Accounts.of_ports {s t : State} (h : t.ports = s.ports) : Accounts s t :=
  ⟨congrArg Ports.requests h, fun a => by rw [State.account_congr h]⟩

theorem Accounts.refl {s : State} : Accounts s s := .of_ports rfl

theorem Accounts.trans {s u t : State} (h : Accounts s u) (h' : Accounts u t) : Accounts s t :=
  ⟨h'.requests.trans h.requests, fun a => (h'.account a).trans (h.account a)⟩

theorem Accounts.then_ports {s u t : State} (h : Accounts s u) (ports : t.ports = u.ports) : Accounts s t :=
  h.trans (.of_ports ports)

/-! ## One entry -/

theorem Entry.owes_of_not_issued {e : Entry} (h : e.state ≠ .issued) (a : AgentIx) : e.owes a = none :=
  if_neg fun c => h c.1

theorem filterMap_cons_toList {α β : Type} (f : α → Option β) (x : α) (l : List α) :
    (x :: l).filterMap f = (f x).toList ++ l.filterMap f := by
  cases h : f x <;> simp [h]

/-- A write of one entry puts what the new entry owes in the place of what the old one owed. -/
theorem entryTags_setEntry (s : State) (k : EntryIx) (e : Entry) (a : AgentIx) :
    ((s.setEntry k e).entryTags a ++ (s.tracker[k].owes a).toList).Perm (s.entryTags a ++ (e.owes a).toList) := by
  have bound : k.val < s.tracker.toList.length := by simp
  have written : (s.setEntry k e).tracker.toList = s.tracker.toList.set k.val e := by
    rw [State.setEntry_tracker, Vector.toList_set]
  have added := (List.set_perm_cons_eraseIdx bound e).filterMap (Entry.owes a)
  have removed := (List.getElem_cons_eraseIdx_perm bound).filterMap (Entry.owes a)
  rw [filterMap_cons_toList] at added removed
  unfold State.entryTags
  rw [written]
  refine List.perm_iff_count.mpr fun tag => ?_
  have more := added.count_eq tag
  have fewer := removed.count_eq tag
  simp only [List.count_append, Vector.getElem_toList, Fin.getElem_fin] at more fewer ⊢
  omega

/-- A write of one entry, for the whole account. -/
theorem account_setEntry (s : State) (k : EntryIx) (e : Entry) (a : AgentIx) :
    ((s.setEntry k e).account a ++ (s.tracker[k].owes a).toList).Perm (s.account a ++ (e.owes a).toList) := by
  have lane : (s.setEntry k e).laneTags a = s.laneTags a := rfl
  refine List.perm_iff_count.mpr fun tag => ?_
  have entry := (entryTags_setEntry s k e a).count_eq tag
  simp only [State.account, lane, State.setEntry_out, List.count_append] at entry ⊢
  omega

/-- An entry that owed nothing and owes nothing. -/
theorem setEntry_accounts_of_silent {s : State} {k : EntryIx} {e : Entry} (old : s.tracker[k].state ≠ .issued)
    (new : e.state ≠ .issued) : Accounts s (s.setEntry k e) := by
  refine ⟨rfl, fun a => ?_⟩
  have perm := account_setEntry s k e a
  rw [Entry.owes_of_not_issued old, Entry.owes_of_not_issued new] at perm
  simpa using perm

/-! ## Responses -/

theorem account_respond (s : State) (r : LaneResponse) (a : AgentIx) :
    (s.respond r).account a = s.account a ++ tagsOn a [r] := by
  unfold State.account
  rw [State.respond_out, tagsOn_append, ← List.append_assoc]
  rfl

/-- The answer to an ISSUED entry, with its end (R47, R48). -/
theorem answerEntry_accounts {s : State} {k : EntryIx} (issued : s.tracker[k].state = .issued) (o : LaneOutcome) :
    Accounts s ((s.respond { lane := s.tracker[k].agent, tag := s.tracker[k].tag, outcome := o }).setEntry k Entry.emptied) := by
  refine ⟨rfl, fun a => ?_⟩
  have perm := account_setEntry (s.respond { lane := s.tracker[k].agent, tag := s.tracker[k].tag, outcome := o }) k
    Entry.emptied a
  have owed : ((s.respond { lane := s.tracker[k].agent, tag := s.tracker[k].tag, outcome := o }).tracker[k].owes a) =
      if s.tracker[k].agent = a then some s.tracker[k].tag else none := by
    show s.tracker[k].owes a = _
    simp only [Entry.owes, issued, true_and]
  rw [owed, Entry.owes_of_not_issued (show Entry.emptied.state ≠ .issued by decide), account_respond, tagsOn_single,
    Option.toList_none, List.append_nil] at perm
  exact (List.perm_append_right_iff _).mp perm

/-- The entries that are abandoned or reset are those that are answered, each to its requester (R52, R56). -/
theorem abandonEntries_accounts {which : Entry → Bool} (issued : ∀ e, which e = true → e.state = .issued) (o : LaneOutcome)
    (s : State) : Accounts s ((abandonEntries which s).respondAll (s.answersTo which o)) := by
  refine ⟨rfl, fun a => ?_⟩
  have left : ((abandonEntries which s).respondAll (s.answersTo which o)).entryTags a =
      (s.tracker.toList.filter fun e => !which e).filterMap (Entry.owes a) := by
    show (s.tracker.map fun e => if which e then e.abandon else e).toList.filterMap _ = _
    rw [Vector.toList_map, List.filterMap_map, List.filterMap_filter]
    refine List.filterMap_congr fun e _ => ?_
    cases chosen : which e with
    | true => simpa [chosen] using Entry.owes_of_not_issued (e := e.abandon) (by simp [Entry.abandon]) a
    | false => simp [chosen]
  have answers : tagsOn a (s.answersTo which o) = (s.tracker.toList.filter which).filterMap (Entry.owes a) := by
    unfold tagsOn
    rw [State.answersTo_lane, List.map_map, ← List.filterMap_eq_map, List.filterMap_filter, List.filterMap_filter]
    refine List.filterMap_congr fun e _ => ?_
    cases chosen : which e with
    | true => simp [Entry.owes, issued e chosen]
    | false => simp
  have lane : ((abandonEntries which s).respondAll (s.answersTo which o)).laneTags a = s.laneTags a := rfl
  have all := (List.filter_append_perm which s.tracker.toList).filterMap (Entry.owes a)
  rw [List.filterMap_append] at all
  refine List.perm_iff_count.mpr fun tag => ?_
  have total := all.count_eq tag
  simp only [State.account, State.respondAll_out, abandonEntries_out, tagsOn_append, left, answers, lane,
    List.count_append] at total ⊢
  unfold State.entryTags
  omega

/-! ## Completions, timeouts, ticks, soft resets -/

/-- The requester of a completed entry receives one response with its tag (R47, R48). -/
theorem answered_ports (e : Entry) (status : MemStatus) (data : List Byte) (s : State) :
    ∃ o, (answered e status data s).ports = (s.respond { lane := e.agent, tag := e.tag, outcome := o }).ports := by
  cases status with
  | ok =>
    unfold answered answerOk
    cases e.kind with
    | read => exact ⟨_, rfl⟩
    | write => exact ⟨_, rfl⟩
  | error => exact ⟨_, offerFault_ports _ _ _⟩

theorem setEntry_ports {s t : State} (h : t.ports = s.ports) (k : EntryIx) (e : Entry) :
    (t.setEntry k e).ports = (s.setEntry k e).ports := by
  simp only [State.ports, Ports.mk.injEq] at h ⊢
  obtain ⟨lanes, tracker, responses, requests⟩ := h
  exact ⟨lanes, by rw [State.setEntry_tracker, tracker]; rfl, responses, requests⟩

theorem memoryCompletion_accounts (k : EntryIx) (status : MemStatus) (data : List Byte) (s : State) :
    Accounts s (memoryCompletion k status data s) := by
  unfold memoryCompletion
  split
  · rename_i issued
    obtain ⟨o, answer⟩ := answered_ports s.tracker[k] status data s
    have ended := (answerEntry_accounts issued o).then_ports (setEntry_ports answer k Entry.emptied)
    rw [completeIssued_eq]
    refine ended.then_ports ?_
    unfold settleIfDraining
    split
    · exact settle_ports _
    · rfl
  · rename_i abandoned
    exact setEntry_accounts_of_silent (by rw [abandoned]; decide) (by decide)
  · exact .of_ports (stopProcessor_ports _)

theorem Entry.issued_of_issuedUnder {e : Entry} {members : List SlotIx} (h : e.issuedUnder members = true) :
    e.state = .issued := by
  rw [Entry.issuedUnder_eq] at h
  exact (of_decide_eq_true h).1

theorem timeoutRetires_accounts (ks : List RetireIx) (s : State) : Accounts s (timeoutRetires ks s) := by
  let under (e : Entry) : Bool := ks.any fun k => e.issuedUnder (s.membersOf k)
  have issued : ∀ e, under e = true → e.state = .issued := fun e h => by
    obtain ⟨k, -, hk⟩ := List.any_eq_true.mp h
    exact Entry.issued_of_issuedUnder hk
  have lanes : ∀ (ks : List RetireIx) (s : State), (ks.foldl timeoutRetire s).lanes = s.lanes := by
    intro ks
    induction ks with
    | nil => exact fun _ => rfl
    | cons k rest ih => exact fun s => (ih _).trans (by rw [timeoutRetire_frame])
  refine (abandonEntries_accounts issued .abandoned s).then_ports ?_
  simp only [State.ports, Ports.mk.injEq]
  unfold timeoutRetires
  simp only [State.respondAll_lanes, State.respondAll_tracker, State.respondAll_out, lanes, foldl_timeoutRetire_tracker,
    foldl_timeoutRetire_out]
  exact ⟨rfl, rfl, rfl, rfl⟩

theorem drainTimeout_accounts (k : RetireIx) (s : State) : Accounts s (drainTimeout k s) := by
  unfold drainTimeout
  split
  · exact (timeoutRetires_accounts [k] s).then_ports (by simp)
  · exact .refl

theorem leaseTick_accounts (s : State) : Accounts s (leaseTick s) := by
  have lapsed (l : List SlotIx) : (l.foldl lapseGrant (countdown s)).ports = s.ports := foldl_ports lapseGrant_ports l _
  have stages : Accounts s (tickStages s) := (Accounts.of_ports (lapsed _)).trans (timeoutRetires_accounts _ _)
  have clocked (u : State) (c : LeaseClock) : ({ u with clock := c } : State).ports = u.ports := rfl
  refine stages.then_ports ?_
  rw [leaseTick_eq, tickEnd, stopProcessor_ports, takeTest_ports, clocked, settle_ports]

theorem softReset_accounts (s : State) : Accounts s (softReset s) := by
  let issued (e : Entry) : Bool := decide (e.state = .issued)
  let answeredEntries := (abandonEntries issued s).respondAll (s.answersTo issued .reset)
  have entries : Accounts s answeredEntries := abandonEntries_accounts (fun _ => of_decide_eq_true) .reset s
  refine entries.trans ⟨rfl, fun a => ?_⟩
  have tags : (softReset s).entryTags a = answeredEntries.entryTags a := rfl
  have noLanes : (softReset s).laneTags a = [] := by
    show (Vector.replicate 16 (none : Option Request))[a].toList.map Request.tag = _
    simp
  have sent : (softReset s).out.responses = answeredEntries.out.responses ++ laneResets answeredEntries := by
    simp [softReset, answeredEntries, issued, laneResets]
  unfold State.account
  rw [tags, noLanes, sent, tagsOn_append, tagsOn_laneResets]
  refine List.perm_iff_count.mpr fun tag => ?_
  simp only [List.count_append, List.count_nil]
  omega

/-! ## Host writes -/

theorem writeControl_accounts (v : Word) (s : State) : Accounts s (writeControl v s) := by
  have cleared : Accounts s (if v.getLsbD 3 then clearPushRefused s else s) := by
    split <;> exact .of_ports rfl
  unfold writeControl
  split
  · exact softReset_accounts s
  · dsimp only
    split
    · exact cleared.then_ports (discardAction_ports _)
    · split
      · exact cleared.then_ports (resumeAction_ports _)
      · exact cleared

theorem hostWrite_accounts (reg : BitVec 5) (v : Word) (s : State) : Accounts s (hostWrite reg v s) := by
  unfold hostWrite
  split
  case h_1 => exact writeControl_accounts v s
  case h_10 => exact .of_ports (pushCommand_ports s)
  case h_11 => exact .of_ports (popResponse_ports s)
  case h_12 => exact .of_ports (selectFault_ports v s)
  case h_13 => exact .of_ports (acknowledgeFault_ports v s)
  all_goals exact .of_ports rfl

/-! ## Every command but a take, a presentation and the two hard resets -/

theorem happening_accounts {f : State → State} {s t : State} (h : happening f s = .next t) (hf : ∀ u, Accounts u (f u)) :
    Accounts s.quiet t := by
  cases hr : s.inReset with
  | true => rw [happening_in_reset hr] at h; cases h; exact .refl
  | false => rw [happening_of_running hr] at h; cases h; exact hf _

/-- A happening that leaves the ports alone. -/
theorem happening_silent {f : State → State} {s t : State} (h : happening f s = .next t) (hf : ∀ u, (f u).ports = u.ports) :
    Accounts s.quiet t := happening_accounts h fun u => .of_ports (hf u)

/-- The commands that neither take an access, nor present one, nor drop any. -/
def keepsAccounts : Instr → Bool
  | .powerOnReset | .hardwareReset | .requestPresented _ _ | .accessTake => false
  | _ => true

theorem exec_accounts {c : Instr} (keeps : keepsAccounts c = true) {s t : State} (h : exec c s = .next t) :
    Accounts s.quiet t := by
  cases c with
  | powerOnReset | hardwareReset | requestPresented _ _ | accessTake => cases keeps
  | softReset => exact happening_accounts h softReset_accounts
  | memoryCompletion k status data => exact happening_accounts h (memoryCompletion_accounts k status data)
  | freeing i => exact happening_silent h (freeing_ports i)
  | retireCompletion k => exact happening_silent h (retireCompletion_ports k)
  | barrierCompletion => exact happening_silent h completeBarrier_ports
  | leaseTick => exact happening_accounts h leaseTick_accounts
  | lapse i => exact happening_silent h (lapse_ports i)
  | owedNoticePosted => exact happening_silent h owedNoticePosted_ports
  | drainTimeout k => exact happening_accounts h (drainTimeout_accounts k)
  | push v => exact happening_silent h pushCommand_ports
  | pop v => exact happening_silent h popResponse_ports
  | resume => exact happening_silent h resumeAction_ports
  | discard => exact happening_silent h discardAction_ports
  | pushRefusedClear => exact happening_silent h clearPushRefused_ports
  | discardRemoval => exact happening_silent h discardRemoval_ports
  | errorClear v => exact happening_silent h fun _ => rfl
  | faultAck v => exact happening_silent h (acknowledgeFault_ports v)
  | faultSelect v => exact happening_silent h (selectFault_ports v)
  | intEnable v => exact happening_silent h fun _ => rfl
  | registerWrite reg v => exact happening_accounts h (hostWrite_accounts reg v)
  | create => exact happening_silent h fun _ => takeCommand_ports createBody_ports
  | derive => exact happening_silent h fun _ => takeCommand_ports deriveBody_ports
  | modify => exact happening_silent h fun _ => takeCommand_ports modifyBody_ports
  | query => exact happening_silent h fun _ => takeCommand_ports queryBody_ports
  | revoke => exact happening_silent h fun _ => takeCommand_ports revokeBody_ports
  | revokeAgent => exact happening_silent h fun _ => takeCommand_ports revokeAgentBody_ports
  | purge => exact happening_silent h fun _ => takeCommand_ports purgeBody_ports
  | barrier => exact happening_silent h fun _ => takeCommand_ports barrierBody_ports
  | agentSet => exact happening_silent h fun _ => takeCommand_ports agentSetBody_ports
  | quarantine => exact happening_silent h fun _ => takeCommand_ports (moveAgent_ports _ _)
  | release => exact happening_silent h fun _ => takeCommand_ports (moveAgent_ports _ _)
  | excludeSet => exact happening_silent h fun _ => takeCommand_ports excludeSetBody_ports
  | freeze => exact happening_silent h fun _ => takeCommand_ports freezeBody_ports
  | configure => exact happening_silent h fun _ => takeCommand_ports configureBody_ports
  | unknownKindCode => exact happening_silent h fun _ => takeCommand_ports fun _ _ => rfl
  | statusRead => exact happening_silent h fun _ => judgedAfter_ports rfl
  | errorRead => exact happening_silent h fun _ => judgedAfter_ports rfl
  | agentRead b => exact happening_silent h fun u => judgedAfter_ports (judgeAgentRead_ports b u)
  | grantRead b => exact happening_silent h (grantRead_ports b)
  | hold b => exact happening_silent h fun u => judgedAfter_ports (judgeHold_ports _ _ b u)
  | unhold b => exact happening_silent h fun u => judgedAfter_ports (judgeHold_ports _ _ b u)
  | badFrame b =>
    refine happening_silent h fun u => ?_
    split
    · exact judgedAfter_ports rfl
    · rfl
  | resetRelease => cases h; split <;> exact .of_ports rfl
  | csAsserted => cases h; split <;> exact .of_ports rfl
  | csDeasserted => cases h; exact .of_ports rfl
  | fullByteReceived b => exact happening_silent h (receiveByte_ports b)

end Sys2Proof.Machine
end

section
/-! Accesses: what reaches the memory port (R36, R45), and the account of a take (R25, R28, R36, R37). -/

namespace Sys2Proof.Machine

/-! ## Takes of the arbiter -/

/-- ACCESS_TAKE takes the arbiter's next lane, or nothing happens (R26, R28). -/
theorem exec_accessTake_cases {s t : State} (h : exec .accessTake s = .next t) :
    t = s.quiet ∨ ∃ a q, NextTake s a q := by
  have takes : happening accessTake s = .next t := h
  cases running : s.inReset with
  | true => rw [happening_in_reset running] at takes; cases takes; exact .inl rfl
  | false =>
    rw [happening_of_running running] at takes
    cases takes
    unfold accessTake
    cases next : nextLane s.quiet with
    | none => exact .inl rfl
    | some a =>
      obtain ⟨takeable, first⟩ := nextLane_eq_some.mp next
      obtain ⟨q, held⟩ := Option.ne_none_iff_exists'.mp takeable.1
      exact .inr ⟨a, q, running, held, takeable, first⟩

/-- A take that fails answers its lane, and of the ports changes nothing else (R37). -/
theorem takeLane_ports_of_fails {a : AgentIx} {q : Request} {f : FaultKind} {s : State}
    (fails : firstFailing (elevenChecks s a q) = some f) :
    (takeLane a q s).ports = ((s.taking a).respond { lane := a, tag := q.tag, outcome := .fault f }).ports := by
  rw [takeLane_of_fails fails, stopProcessor_ports, faultAccess_frame, accessAnswer_frame]
  rfl

/-! ## What reaches the memory port -/

/-- The bytes of a request that passes lie inside its window, and an address in the physical space is not cut off (R3, R36). -/
theorem address_toNat {s : State} (windows : WindowsSound s) {a : AgentIx} {q : Request} (passed : PassesChecks s a q) :
    (BitVec.ofNat 40 ((s.grant (handleSlot q.handle)).base.toNat * 256 + q.offset.toNat)).toNat =
      (s.grant (handleSlot q.handle)).base.toNat * 256 + q.offset.toNat := by
  have space := windows.space (handleSlot q.handle) (by rw [passed.live]; decide)
  have inside := passed.inside
  have nonzero : q.length.toNat ≠ 0 := fun zero => passed.nonzero (BitVec.eq_of_toNat_eq zero)
  rw [BitVec.toNat_ofNat]
  exact Nat.mod_eq_of_lt (by omega)

/-- The memory request of a passing take meets every condition of R36. -/
theorem admittedAccess_of_passes {s : State} {a : AgentIx} {q : Request} (windows : WindowsSound s) (next : NextTake s a q)
    (passed : PassesChecks s a q) {d : Direction} (direction : q.kind = .read ∧ d = .read ∨ q.kind = .write ∧ d = .write)
    {m : MemRequest} (kind : m.kind = d) (length : m.length = q.length.toNat) (address : m.address =
      BitVec.ofNat 40 ((s.grant (handleSlot q.handle)).base.toNat * 256 + q.offset.toNat)) : AdmittedAccess s a q m where
  running := passed.running
  admitted := passed.admitted
  waiting := next.held
  live := passed.live
  current := passed.generation
  unbroken := passed.unbroken
  grantee := passed.grantee
  allowed := by
    have allowed := passed.allowed
    rcases direction with ⟨asked, rfl⟩ | ⟨asked, rfl⟩
    all_goals
      rw [asked] at allowed
      rw [kind]
      exact ⟨asked, allowed⟩
  low := by
    rw [address, address_toNat windows passed]
    omega
  high := by
    have inside := passed.inside
    rw [address, address_toNat windows passed, length]
    omega

/-- No command but a take sends a memory request. -/
theorem exec_requests_of_ne_take {c : Instr} (other : c ≠ .accessTake) {s t : State} (h : exec c s = .next t) :
    t.out.requests = [] := by
  cases c with
  | accessTake => exact absurd rfl other
  | powerOnReset | hardwareReset => cases h; rfl
  | requestPresented b q =>
    have presents (u : State) : (presentRequest b q u).out = u.out := by
      unfold presentRequest
      split <;> rfl
    have happens : happening (presentRequest b q) s = .next t := h
    unfold happening at happens
    cases happens
    split
    · rfl
    · rw [presents]; rfl
  | _ => exact (exec_accounts rfl h).requests

/-- Settles O49. -/
theorem onlyAdmittedAccessesReachMemory : Obligations.OnlyAdmittedAccessesReachMemory := by
  intro c s t m windows h sent
  by_cases take : c = .accessTake
  · subst take
    refine ⟨rfl, ?_⟩
    rcases exec_accessTake_cases h with rfl | ⟨a, q, next⟩
    · exact absurd sent List.not_mem_nil
    · cases outcome : firstFailing (elevenChecks s a q) with
      | none =>
        obtain ⟨k, d, -, -, direction, issues⟩ := passingTakeIssues s a q next outcome
        rw [h] at issues
        cases issues
        obtain rfl := List.mem_singleton.mp sent
        exact ⟨a, q, admittedAccess_of_passes windows next (passesChecks outcome) direction rfl rfl rfl⟩
      | some f =>
        rw [execAccessTake_eq next] at h
        cases h
        have none : (takeLane a q s.quiet).out.requests = [] :=
          congrArg Ports.requests (takeLane_ports_of_fails (s := s.quiet) outcome)
        rw [none] at sent
        exact absurd sent List.not_mem_nil
  · rw [exec_requests_of_ne_take take h] at sent
    exact absurd sent List.not_mem_nil

/-! ## The account of a take -/

/-- What the lane that is taken owed its agent (R28). -/
theorem laneTags_taking {s : State} {a : AgentIx} {q : Request} (held : s.lanes[a] = some q) (b : AgentIx) :
    (s.taking a).laneTags b ++ (if a = b then some q.tag else none).toList = s.laneTags b := by
  unfold State.laneTags
  by_cases same : a = b
  · subst same
    have emptied : (s.taking a).lanes[a] = none := Vector.getElem_set_self _
    rw [emptied, held]
    simp
  · have apart : (s.taking a).lanes[b] = s.lanes[b] :=
      Vector.getElem_set_ne a.isLt b.isLt fun c => same (Fin.ext c)
    rw [apart, if_neg same]
    simp

/-- A request that leaves its lane for an EMPTY entry stays owed (R25, R36). -/
theorem account_of_issue {s t : State} {a : AgentIx} {q : Request} {k : EntryIx} (held : s.lanes[a] = some q)
    (empty : s.tracker[k].state = .empty)
    (issued : ∃ e, t.tracker = (s.setEntry k e).tracker ∧ e.state = .issued ∧ e.agent = a ∧ e.tag = q.tag)
    (lanes : t.lanes = (s.taking a).lanes) (responses : t.out.responses = s.out.responses) (b : AgentIx) :
    (t.account b).Perm (s.account b) := by
  obtain ⟨e, tracker, state, agent, tag⟩ := issued
  have owes : e.owes b = if a = b then some q.tag else none := by simp [Entry.owes, state, agent, tag]
  have entry := entryTags_setEntry s k e b
  rw [Entry.owes_of_not_issued (show s.tracker[k].state ≠ .issued by rw [empty]; decide), owes] at entry
  have lane := laneTags_taking held b
  have sameEntries : t.entryTags b = (s.setEntry k e).entryTags b := by unfold State.entryTags; rw [tracker]
  have sameLane : t.laneTags b = (s.taking a).laneTags b := by unfold State.laneTags; rw [lanes]
  refine List.perm_iff_count.mpr fun tag => ?_
  have entryCount := entry.count_eq tag
  have laneCount := congrArg (List.count tag) lane
  simp only [State.account, sameEntries, sameLane, responses, Option.toList_none, List.append_nil,
    List.count_append] at entryCount laneCount ⊢
  omega

/-- A request that leaves its lane with a FAULT response is owed no longer (R37). -/
theorem account_of_fault {s : State} {a : AgentIx} {q : Request} (held : s.lanes[a] = some q) (f : FaultKind) (b : AgentIx) :
    (((s.taking a).respond { lane := a, tag := q.tag, outcome := .fault f }).account b).Perm (s.account b) := by
  have entries : (s.taking a).entryTags b = s.entryTags b := rfl
  have sent : (s.taking a).out.responses = s.out.responses := rfl
  rw [account_respond, tagsOn_single]
  refine List.perm_iff_count.mpr fun tag => ?_
  have lane := congrArg (List.count tag) (laneTags_taking held b)
  simp only [State.account, entries, sent, List.count_append] at lane ⊢
  omega

/-- A taken request is answered, or owed by its entry (R28, R36, R37). -/
theorem accessTake_account {s t : State} (h : exec .accessTake s = .next t) (b : AgentIx) :
    (t.account b).Perm (s.quiet.account b) := by
  rcases exec_accessTake_cases h with rfl | ⟨a, q, next⟩
  · exact .refl _
  cases outcome : firstFailing (elevenChecks s a q) with
  | none =>
    obtain ⟨k, d, empty, -, -, issues⟩ := passingTakeIssues s a q next outcome
    rw [h] at issues
    cases issues
    refine account_of_issue (s := s.quiet) (k := k) next.held empty ?_ ?_ ?_ b
    · exact ⟨_, rfl, rfl, rfl, rfl⟩
    · rfl
    · rfl
  | some f =>
    rw [execAccessTake_eq next] at h
    cases h
    rw [State.account_congr (takeLane_ports_of_fails (s := s.quiet) outcome)]
    exact account_of_fault (s := s.quiet) next.held f b

/-- A presentation on another lane leaves an agent's account alone (R22). -/
theorem requestPresented_account {s t : State} {a b : AgentIx} {q : Request} (apart : b ≠ a)
    (h : exec (.requestPresented b q) s = .next t) : t.account a = s.quiet.account a := by
  have presents (u : State) : (presentRequest b q u).account a = u.account a := by
    unfold presentRequest
    split
    · have lane : (u.setLane b (some q)).lanes[a] = u.lanes[a] :=
        Vector.getElem_set_ne b.isLt a.isLt fun c => apart (Fin.ext c)
      unfold State.account State.laneTags
      rw [lane]
      rfl
    · rfl
  have happens : happening (presentRequest b q) s = .next t := h
  unfold happening at happens
  cases happens
  split
  · rfl
  · exact presents _

/-- Settles O50. -/
theorem everyRequestIsAnsweredOnce : Obligations.EveryRequestIsAnsweredOnce := by
  intro c s t a notPowerOn notHardware notPresented h
  have kept : (t.account a).Perm (s.quiet.account a) := by
    cases c with
    | powerOnReset => exact absurd rfl notPowerOn
    | hardwareReset => exact absurd rfl notHardware
    | accessTake => exact accessTake_account h a
    | requestPresented b q =>
      have apart : b ≠ a := fun same => notPresented q (by rw [same])
      rw [requestPresented_account apart h]
    | _ => exact (exec_accounts rfl h).account a
  rw [State.owedTags_eq, State.owedTags_eq]
  have start : s.quiet.account a = s.entryTags a ++ s.laneTags a := List.append_nil _
  rw [start] at kept
  exact kept

end Sys2Proof.Machine
end

section
/-! Memory completions that no agent waits for: for an ABANDONED and for an EMPTY entry (R49, R50). -/

namespace Sys2Proof.Machine

/-! ## An ABANDONED entry -/

/-- The entry becomes EMPTY, and nothing is sent (R49). -/
theorem exec_memoryCompletion_abandoned {s : State} {k : EntryIx} (running : s.inReset = false)
    (abandoned : s.tracker[k].state = .abandoned) (status : MemStatus) (data : List Byte) :
    exec (.memoryCompletion k status data) s = .next (s.quiet.setEntry k Entry.emptied) := by
  have entry : s.quiet.tracker[k].state = .abandoned := abandoned
  simp only [exec, execMemoryCompletion, happening_of_running running]
  unfold memoryCompletion
  simp only [entry]

/-! ## An EMPTY entry -/

/-- The completion is dropped, and a STRAY error with its tag recorded (R50). -/
theorem exec_memoryCompletion_empty {s : State} {k : EntryIx} (running : s.inReset = false)
    (empty : s.tracker[k].state = .empty) (status : MemStatus) (data : List Byte) :
    exec (.memoryCompletion k status data) s = .next (stopProcessor (recordError .stray k.val s.quiet)) := by
  have entry : s.quiet.tracker[k].state = .empty := empty
  simp only [exec, execMemoryCompletion, happening_of_running running]
  unfold memoryCompletion
  simp only [entry]

theorem ErrorRecord.add_stray (e : ErrorRecord) (detail : Nat) : e.add .stray detail = { e with
    stray := true
    first := some (e.first.getD ⟨.stray, detail⟩)
    further := e.further || e.first.isSome } := by
  cases h : e.first <;> simp [ErrorRecord.add, h]

/-- An error of a FATAL class stops the device, and a stopped device stays stopped (R162). -/
theorem recordError_eq (c : ErrorClass) (detail : Nat) (s : State) : recordError c detail s = { s with
    errors := s.errors.add c detail
    runState := if s.config.severity c = .fatal ∨ s.runState = .stopped then .stopped else .running } := by
  unfold recordError
  by_cases fatal : s.config.severity c = .fatal
  · rw [if_pos fatal, if_pos (.inl fatal)]
  · rw [if_neg fatal]
    cases run : s.runState with
    | running => rw [if_neg (not_or.mpr ⟨fatal, by decide⟩)]
    | stopped => rw [if_pos (.inr rfl)]

/-- The processor stops with the device (R77, R162). -/
theorem stopProcessor_recordError (c : ErrorClass) (detail : Nat) (s : State) :
    stopProcessor (recordError c detail s) =
      let stops : Prop := s.config.severity c = .fatal ∨ s.runState = .stopped
      { s with
        errors := s.errors.add c detail
        runState := if stops then .stopped else .running
        processor := if stops then { s.processor with state := .stopped, discardCount := 0 } else s.processor } := by
  rw [recordError_eq]
  by_cases stops : s.config.severity c = .fatal ∨ s.runState = .stopped
  · simp only [if_pos stops]
    exact stopProcessor_stopped rfl
  · simp only [if_neg stops]
    exact stopProcessor_running rfl

/-- Settles O12. -/
theorem completionOfAnAbandonedOrEmptyEntry : Obligations.CompletionOfAnAbandonedOrEmptyEntry := by
  intro s k status data running
  refine ⟨fun abandoned => exec_memoryCompletion_abandoned running abandoned status data, fun empty => ?_⟩
  rw [exec_memoryCompletion_empty running empty, stopProcessor_recordError, ErrorRecord.add_stray]
  rfl

end Sys2Proof.Machine
end

section
/-! What the queues, the processor and the retire set see of a command: the work that leaves them alone, and the deeds that
do not. -/

namespace Sys2Proof.Machine

/-! ## The control -/

/-- The queues, the processor and the retire set. -/
structure Control where
  commandQueue  : List CommandRecord
  responseQueue : List ResponseRecord
  reserved      : Nat
  processor     : Processor
  retire        : Vector (Option RetireOp) 8

/-- The control of a state. -/
def State.control (s : State) : Control := ⟨s.commandQueue, s.responseQueue, s.reserved, s.processor, s.retire⟩

/-- All that the invariants of the control read. -/
structure Inner where
  control      : Control
  grants       : GrantTable
  freeList     : List SlotIx
  runState     : RunState
  drainTimeout : Nat

/-- The inner part of a state. -/
def State.inner (s : State) : Inner := ⟨s.control, s.grants, s.freeList, s.runState, s.config.drainTimeout⟩

theorem control_eq_iff {s t : State} : t.control = s.control ↔ t.commandQueue = s.commandQueue ∧
    t.responseQueue = s.responseQueue ∧ t.reserved = s.reserved ∧ t.processor = s.processor ∧ t.retire = s.retire := by
  simp [State.control]

theorem inner_eq_iff {s t : State} : t.inner = s.inner ↔ t.control = s.control ∧ t.grants = s.grants ∧
    t.freeList = s.freeList ∧ t.runState = s.runState ∧ t.config.drainTimeout = s.config.drainTimeout := by
  simp [State.inner]

/-! ## Work aside -/

/-- DRAINING slots stay DRAINING, and no slot becomes a child of one. -/
structure DrainingStays (s t : State) : Prop where
  draining : ∀ i, (s.grant i).state = .draining → (t.grant i).state = .draining
  children : ∀ i j, (s.grant i).state = .draining → (t.grant j).parent = some i → (s.grant j).parent = some i

theorem DrainingStays.trans {s u t : State} (h : DrainingStays s u) (h' : DrainingStays u t) : DrainingStays s t where
  draining i hi := h'.draining i (h.draining i hi)
  children i j hi hj := h.children i j hi (h'.children i j (h.draining i hi) hj)

theorem DrainingStays.of_records {s t : State} (parent : ∀ i, (t.grant i).parent = (s.grant i).parent)
    (draining : ∀ i, (s.grant i).state = .draining → (t.grant i).state = .draining) : DrainingStays s t :=
  ⟨draining, fun _ j _ hj => (parent j).symm.trans hj⟩

theorem DrainingStays.of_grants {s t : State} (h : t.grants = s.grants) : DrainingStays s t := by
  have same : t.grant = s.grant := State.grant_congr h
  exact .of_records (fun _ => by rw [same]) fun _ hi => by rwa [same]

/-- Work that leaves the queues, the processor and the retire set alone. -/
structure Aside (s t : State) : Prop where
  control : t.control = s.control
  run     : s.runState = .stopped → t.runState = .stopped
  timeout : s.config.drainTimeout ≤ 65535 → t.config.drainTimeout ≤ 65535
  free    : FreeListSound s → FreeListSound t
  drains  : FreeListSound s → DrainingStays s t

theorem Aside.trans {s u t : State} (h : Aside s u) (h' : Aside u t) : Aside s t where
  control := h'.control.trans h.control
  run := h'.run ∘ h.run
  timeout := h'.timeout ∘ h.timeout
  free := h'.free ∘ h.free
  drains hs := (h.drains hs).trans (h'.drains (h.free hs))

theorem Aside.of_inner {s t : State} (h : t.inner = s.inner) : Aside s t := by
  obtain ⟨control, grants, freeList, run, timeout⟩ := inner_eq_iff.mp h
  exact ⟨control, fun hs => run.trans hs, fun hs => timeout.le.trans hs, fun hs => hs.of_blocks grants freeList,
    fun _ => .of_grants grants⟩

theorem Aside.refl {s : State} : Aside s s := .of_inner rfl

/-- Writes of a grant that leave parents alone and DRAINING slots DRAINING. -/
theorem Aside.of_grants {s t : State} (control : t.control = s.control) (run : s.runState = .stopped → t.runState = .stopped)
    (config : t.config = s.config) (free : FreeListSound s → FreeListSound t) (drains : FreeListSound s → DrainingStays s t) :
    Aside s t := ⟨control, run, fun hs => by rwa [config], free, drains⟩

theorem FreeListSound.leads {s t : State} (hs : FreeListSound s) (h : Reaches s t) : FreeListSound t := by
  induction h with
  | refl => exact hs
  | tail _ change ih => exact ih.change change

theorem GrantsSound.leads {s t : State} (hs : GrantsSound s) (h : Reaches s t) : GrantsSound t := by
  induction h with
  | refl => exact hs
  | tail _ change ih => exact ih.change change

/-! ### Integrity reads and scans -/

theorem integrityRead_runState {i : SlotIx} {s : State} (h : s.runState = .stopped) :
    (integrityRead i s).runState = .stopped := by
  rw [integrityRead_records]
  show (if _ then RunState.stopped else s.runState) = .stopped
  rw [h, ite_self]

theorem integrityRead_parent (i : SlotIx) (s : State) (j : SlotIx) :
    ((integrityRead i s).grant j).parent = (s.grant j).parent := by rw [integrityRead_grant]

theorem integrityRead_aside {i : SlotIx} {s : State} (h : (s.grant i).state ≠ .free) : Aside s (integrityRead i s) :=
  .of_grants (by rw [integrityRead_frame]; rfl) integrityRead_runState (by rw [integrityRead_frame])
    (fun hs => hs.leads (integrityRead_leads h).reaches)
    fun _ => .of_records (integrityRead_parent i s) fun j hj => (integrityRead_state i s j).trans hj

theorem foldl_integrityRead_aside {l : List SlotIx} {s : State} (h : ∀ i ∈ l, (s.grant i).state ≠ .free) :
    Aside s (l.foldl (fun s i => integrityRead i s) s) := by
  induction l generalizing s with
  | nil => exact .refl
  | cons i rest ih =>
    exact (integrityRead_aside (h i (by simp))).trans
      (ih fun j hj => by rw [integrityRead_state]; exact h j (by simp [hj]))

theorem integrityScan_aside (s : State) : Aside s (integrityScan s) :=
  foldl_integrityRead_aside fun _ hi => State.mem_nonFree.mp hi

/-! ### The bodies of the commands that complete at their take -/

/-- A command's body answers with a completion, and leaves the control alone. -/
structure Completes (s : State) (answer : Verdict × State) : Prop where
  completes : answer.1 ≠ .stays
  aside     : Aside s answer.2

theorem Completes.after {s u : State} {answer : Verdict × State} (h : Completes u answer) (before : Aside s u) :
    Completes s answer := ⟨h.completes, before.trans h.aside⟩

theorem Aside.completes {s u : State} (h : Aside s u) (st : Status) (handle : Option Handle) (res : Result) :
    Completes s (.completes st handle res, u) := ⟨fun c => (nomatch c), h⟩

theorem refuse_completes (st : Status) (s : State) : Completes s (refuse st s) := Aside.refl.completes st none .absent

theorem done_completes {s u : State} (h : Aside s u) : Completes s (done u) := h.completes .ok none .absent

/-- The new slot was FREE, so it is neither DRAINING nor the child of a DRAINING slot, where its parent is LIVE. -/
theorem allocate_aside {r : CommandRecord} {i : SlotIx} {rest : List SlotIx} {base : BitVec 32} {parent : Option SlotIx}
    {depth : Nat} {s : State} (head : s.freeList = i :: rest) (live : ∀ p, parent = some p → (s.grant p).state = .live) :
    Aside s (allocate r i rest base parent depth s) := by
  have old (hs : FreeListSound s) : (s.grant i).state = .free := (hs.exact i).mp (by simp [head])
  refine .of_grants (by rw [allocate_frame]; rfl) (fun h => by rw [allocate_frame]; exact h) (by rw [allocate_frame])
    (fun hs => ?_) fun hs => ⟨fun j hj => ?_, fun j c hj hc => ?_⟩
  · refine hs.of_allocate head (allocate_wf _ _ _ _ _ _ hs.canonical) (by rw [allocate_frame]) ?_ ?_ ?_
    · rw [allocate_state, if_pos rfl]; decide
    · intro j hj; rw [allocate_state, if_neg hj]
    · intro j hj free
      cases parent with
      | none => rw [allocate_root_grant, if_neg hj]
      | some p =>
        have apart : j ≠ p := by rintro rfl; rw [live j rfl] at free; cases free
        rw [allocate_child_grant r (hs.head_ne head (live p rfl)), if_neg hj, if_neg apart]
  · have apart : j ≠ i := by rintro rfl; rw [old hs] at hj; cases hj
    rw [allocate_state, if_neg apart]; exact hj
  · cases parent with
    | none =>
      rw [allocate_root_grant] at hc
      split at hc
      · cases hc
      · exact hc
    | some p =>
      rw [allocate_child_grant r (hs.head_ne head (live p rfl))] at hc
      split at hc
      · obtain rfl : p = j := Option.some.inj hc
        rw [live p rfl] at hj
        cases hj
      · split at hc
        · next same => rw [same]; exact hc
        · exact hc

theorem allocateChecked_completes {r : CommandRecord} {base : BitVec 32} {parent : Option SlotIx} {depth : Nat} {s : State}
    (live : ∀ p, parent = some p → (s.grant p).state = .live) : Completes s (allocateChecked r base parent depth s) := by
  unfold allocateChecked
  split
  · exact refuse_completes _ s
  · split
    · exact refuse_completes _ s
    · next head => exact (allocate_aside head live).completes _ _ _

theorem createBody_completes (r : CommandRecord) (s : State) : Completes s (createBody r s) := by
  unfold createBody
  split_ifs
  · exact refuse_completes _ s
  · exact refuse_completes _ s
  · exact refuse_completes _ s
  · exact allocateChecked_completes fun p hp => nomatch hp

theorem deriveFrom_completes {p : SlotIx} (r : CommandRecord) {s : State} (live : (s.grant p).state = .live) :
    Completes s (deriveFrom p r s) := by
  unfold deriveFrom
  dsimp only
  split_ifs
  · exact refuse_completes _ s
  · exact refuse_completes _ s
  · exact refuse_completes _ s
  · exact refuse_completes _ s
  · exact refuse_completes _ s
  · exact allocateChecked_completes fun q hq => Option.some.inj hq ▸ live

theorem deriveBody_completes (r : CommandRecord) (s : State) : Completes s (deriveBody r s) := by
  unfold deriveBody
  split
  · exact refuse_completes _ s
  · split
    · exact refuse_completes _ s
    · next resolved =>
      have live := (not_or.mp resolved).2
      rw [not_not] at live
      exact (deriveFrom_completes r (by rw [integrityRead_state]; exact live)).after
        (integrityRead_aside (by rw [live]; decide))

theorem modifyTarget_completes {i : SlotIx} {r : CommandRecord} {s : State} (values : r.modifyBad = false)
    (inUse : (s.grant i).state.inUse = true) : Completes s (modifyTarget i r s) := by
  have leads := modifyTarget_leads values inUse
  unfold modifyTarget at leads ⊢
  dsimp only at leads ⊢
  split_ifs at leads ⊢
  · exact Aside.refl.completes _ _ _
  · exact Aside.refl.completes _ _ _
  · exact Aside.refl.completes _ _ _
  · exact Aside.refl.completes _ _ _
  · have reached : Reaches s (s.setGrant i (r.applied (s.grant i))) := leads.reaches
    have aside : Aside s (s.setGrant i (r.applied (s.grant i))) := by
      refine .of_grants rfl id rfl (fun hs => hs.leads reached) fun _ => .of_records (fun j => ?_) fun j hj => ?_
      · rw [State.grant_setGrant]
        split
        · next same => rw [same]; rfl
        · rfl
      · have apart : j ≠ i := by rintro rfl; rw [hj] at inUse; cases inUse
        rw [State.grant_setGrant_ne _ _ apart]; exact hj
    exact aside.completes _ _ _

theorem modifyBody_completes (r : CommandRecord) (s : State) : Completes s (modifyBody r s) := by
  unfold modifyBody
  split
  · exact refuse_completes _ s
  · next values =>
    split
    · exact Aside.refl.completes _ _ _
    · next resolved =>
      have inUse := modifyStateOk_inUse (by simpa using (not_or.mp resolved).2)
      exact (modifyTarget_completes (by simpa using values) (by rw [integrityRead_state]; exact inUse)).after
        (integrityRead_aside (State.ne_free_of_inUse inUse))

theorem queryBody_completes (r : CommandRecord) (s : State) : Completes s (queryBody r s) := by
  unfold queryBody
  split
  · next resolves => exact (integrityRead_aside (State.resolves_iff.mp resolves).1).completes _ _ _
  · exact Aside.refl.completes _ _ _

theorem agentSetBody_completes (r : CommandRecord) (s : State) : Completes s (agentSetBody r s) := by
  unfold agentSetBody
  split_ifs
  · exact refuse_completes _ s
  · exact refuse_completes _ s
  · exact done_completes (.of_inner rfl)

theorem moveAgent_completes (source target : AgentState) (r : CommandRecord) (s : State) :
    Completes s (moveAgent source target r s) := by
  unfold moveAgent
  split
  · exact done_completes (.of_inner rfl)
  · exact refuse_completes _ s

theorem enableRange_completes (r : CommandRecord) (s : State) : Completes s (enableRange r s) := by
  unfold enableRange
  split
  · exact Aside.refl.completes _ _ _
  · exact done_completes (.of_inner rfl)

theorem excludeSetBody_completes (r : CommandRecord) (s : State) : Completes s (excludeSetBody r s) := by
  unfold excludeSetBody
  split_ifs
  · exact refuse_completes _ s
  · exact refuse_completes _ s
  · exact refuse_completes _ s
  · exact (enableRange_completes r _).after (integrityScan_aside s)
  · exact done_completes (.of_inner rfl)

theorem freezeBody_completes (r : CommandRecord) (s : State) : Completes s (freezeBody r s) := by
  unfold freezeBody
  split_ifs
  · exact refuse_completes _ s
  · exact refuse_completes _ s
  · exact done_completes (.of_inner rfl)

/-- The drain timeout that CONFIGURE writes is a 16-bit field (R154, R181). -/
theorem configureBody_completes (r : CommandRecord) (s : State) : Completes s (configureBody r s) := by
  unfold configureBody
  split_ifs
  · exact refuse_completes _ s
  · exact refuse_completes _ s
  · refine done_completes ⟨rfl, id, fun _ => ?_, fun hs => hs.of_blocks rfl rfl, fun _ => .of_grants rfl⟩
    exact Nat.le_of_lt_succ (r.c5.extractLsb' 16 16).isLt

end Sys2Proof.Machine
end

section
/-! Every command is one deed, as the queues, the processor and the retire set see it. -/

namespace Sys2Proof.Machine

/-! ## The deeds -/

theorem State.owesNotice_congr {s t : State} (h : ∀ i, (t.grant i).noticeOwed = (s.grant i).noticeOwed) :
    t.owesNotice = s.owesNotice := by
  rw [Bool.eq_iff_iff, State.owesNotice_iff, State.owesNotice_iff]
  simp only [h]

theorem integrityRead_owesNotice (i : SlotIx) (s : State) : (integrityRead i s).owesNotice = s.owesNotice :=
  State.owesNotice_congr fun j => by rw [integrityRead_grant]

/-- A take of the head record is due (R66, R67). -/
structure Taking (s : State) (r : CommandRecord) (rest : List CommandRecord) : Prop where
  due    : s.takeDue = true
  queued : s.commandQueue = r :: rest

/-- A condition on a slot or one of its ancestors chooses the members among the non-FREE slots (R103, R105, R106). -/
structure MembersByLine (s : State) (members : List SlotIx) : Prop where
  among : members.Sublist s.nonFree
  line  : ∃ P : SlotIx → Prop, ∀ j, j ∈ members ↔ (s.grant j).state ≠ .free ∧ ∃ x ∈ j :: s.ancestors j, P x

/-- What a command does to the queues, the processor and the retire set. -/
inductive Deed (s : State) : State → Prop
  /-- Nothing. -/
  | aside {t : State} (h : Aside s t) (owes : t.owesNotice = s.owesNotice) (run : t.runState = s.runState) : Deed s t
  /-- Nothing, but that an error on the way may stop the device (R162). -/
  | stops {u : State} (h : Aside s u) (owes : u.owesNotice = s.owesNotice) : Deed s (stopProcessor u)
  /-- The settling after such work (R110). -/
  | settles {u : State} (h : Aside s u) (owes : u.owesNotice = s.owesNotice) (run : u.runState = s.runState) :
      Deed s (settle u)
  /-- A reset (R79, R118). -/
  | resets {t : State} (fresh : t.control = State.reset.control) (run : t.runState = .running)
      (timeout : s.config.drainTimeout ≤ 65535 → t.config.drainTimeout ≤ 65535) : Deed s t
  | push : Deed s (pushCommand s)
  | pop : Deed s (popResponse s)
  | resume : Deed s (resumeAction s)
  | discard : Deed s (discardAction s)
  | discardRemoval : Deed s (discardRemoval s)
  | retireCompletion (k : RetireIx) : Deed s (retireCompletion k s)
  | barrierCompletion : Deed s (completeBarrier s)
  | owedNoticePosted : Deed s (owedNoticePosted s)
  | drainTimeout (k : RetireIx) : Deed s (drainTimeout k s)
  | lapse (i : SlotIx) : Deed s (lapse i s)
  | leaseTick : Deed s (leaseTick s)
  /-- A take whose command completes (R68, R70). -/
  | completes {r : CommandRecord} {rest : List CommandRecord} {u : State} {v : Verdict} (taking : Taking s r rest)
      (h : Completes (s.takeHead rest) (v, u)) : Deed s (endTake r v u)
  /-- The take of a BARRIER that waits (R75). -/
  | waits {r : CommandRecord} {rest : List CommandRecord} (taking : Taking s r rest) :
      Deed s (stopProcessor { s.takeHead rest with
        processor := { s.processor with state := .barrierWait, barrierTag := some r.tag } })
  /-- The take of a revoking command (R101). -/
  | opens {r : CommandRecord} {rest : List CommandRecord} {u : State} {kind : RetireKind} {target : Option Handle}
      {members : List SlotIx} (taking : Taking s r rest) (revoking : r.revoking = true) (h : Aside (s.takeHead rest) u)
      (reaches : Reaches s u) (line : MembersByLine u members) :
      Deed s (stopProcessor (openOperation kind r target members u))

theorem Deed.of_inner {s t : State} (h : t.inner = s.inner) : Deed s t := by
  obtain ⟨-, grants, -, run, -⟩ := inner_eq_iff.mp h
  exact .aside (.of_inner h) (State.owesNotice_congr fun _ => by rw [State.grant_congr grants]) run

theorem Deed.refl {s : State} : Deed s s := .of_inner rfl

/-- A state does one deed, after writes that no invariant reads. -/
def Does (s t : State) : Prop := ∃ u : State, u.inner = s.inner ∧ u.blocks = s.blocks ∧ Deed u t

theorem Deed.does {s t : State} (h : Deed s t) : Does s t := ⟨s, rfl, rfl, h⟩

theorem Does.of_inner {s t : State} (h : t.inner = s.inner) : Does s t := (Deed.of_inner h).does

/-! ## Accesses and completions -/

theorem presentRequest_deed (a : AgentIx) (q : Request) (s : State) : Deed s (presentRequest a q s) := by
  unfold presentRequest
  split
  · exact .of_inner rfl
  · exact .refl

theorem issueAccess_inner (a : AgentIx) (q : Request) (s : State) : (issueAccess a q s).inner = s.inner := by
  unfold issueAccess
  split <;> rfl

theorem faultAccess_inner (a : AgentIx) (q : Request) (f : FaultKind) (s : State) :
    (faultAccess a q f s).inner = s.inner := by rw [faultAccess_frame]; rfl

/-- The eleven checks read one grant at most, which is not FREE (R29). -/
theorem accessCheck_aside (a : AgentIx) (q : Request) (s : State) :
    Aside s (accessCheck a q s).2 ∧ (accessCheck a q s).2.owesNotice = s.owesNotice := by
  unfold accessCheck
  split
  · exact ⟨.refl, rfl⟩
  · next passed =>
    obtain ⟨-, -, -, resolves⟩ := checksToStale_eq_none passed
    exact ⟨integrityRead_aside (State.resolves_iff.mp resolves).1, integrityRead_owesNotice _ s⟩

theorem takeLane_deed (a : AgentIx) (q : Request) (s : State) : Deed s (takeLane a q s) := by
  have taken : Aside s (s.taking a) := .of_inner rfl
  obtain ⟨checked, owes⟩ := accessCheck_aside a q (s.taking a)
  have answered {u : State} (h : u.inner = (accessCheck a q (s.taking a)).2.inner) : Deed s (stopProcessor u) :=
    .stops ((taken.trans checked).trans (.of_inner h))
      ((State.owesNotice_congr fun _ => by rw [State.grant_congr (inner_eq_iff.mp h).2.1]).trans owes)
  unfold takeLane
  dsimp only
  split
  · next check => exact answered ((issueAccess_inner a q _).trans (congrArg (State.inner ∘ Prod.snd) check.symm))
  · next check => exact answered ((faultAccess_inner a q _ _).trans (congrArg (State.inner ∘ Prod.snd) check.symm))

theorem accessTake_deed (s : State) : Deed s (accessTake s) := by
  unfold accessTake
  split
  · exact .refl
  · split
    · exact .refl
    · exact takeLane_deed _ _ s

theorem answered_inner (e : Entry) (status : MemStatus) (data : List Byte) (s : State) :
    (answered e status data s).inner = s.inner := by
  cases status with
  | ok =>
    show (answerOk e data s).inner = s.inner
    unfold answerOk
    split <;> rfl
  | error =>
    show (answerError e s).inner = s.inner
    rw [answerError_frame]
    rfl

theorem memoryCompletion_deed (k : EntryIx) (status : MemStatus) (data : List Byte) (s : State) :
    Deed s (memoryCompletion k status data s) := by
  unfold memoryCompletion
  split
  · have same : ((answered s.tracker[k] status data s).setEntry k Entry.emptied).inner = s.inner :=
      answered_inner s.tracker[k] status data s
    obtain ⟨-, grants, -, run, -⟩ := inner_eq_iff.mp same
    rw [completeIssued_eq]
    unfold settleIfDraining
    split
    · exact .settles (.of_inner same) (State.owesNotice_congr fun _ => by rw [State.grant_congr grants]) run
    · exact .of_inner same
  · exact .of_inner rfl
  · refine .stops (.of_grants rfl (fun h => ?_) rfl (fun hs => hs.of_blocks rfl rfl) fun _ => .of_grants rfl) rfl
    rw [recordError_eq]
    exact if_pos (.inr h)

/-! ## Draining -/

theorem freeing_deed (i : SlotIx) (s : State) : Deed s (freeing i s) := by
  unfold freeing
  split
  · exact .settles .refl rfl rfl
  · exact .refl

/-! ## Takes -/

/-- A take that is not due, or of another kind, is no deed; a due one ends as the record and the body lay down. -/
theorem takeCommand_deed {wanted : Option CommandKind} {body : CommandRecord → State → Verdict × State} {s : State}
    (h : ∀ r rest, Taking s r rest → r.kind = wanted →
      Deed s (endTake r (body r (s.takeHead rest)).1 (body r (s.takeHead rest)).2)) : Deed s (takeCommand wanted body s) := by
  unfold takeCommand
  split
  · exact .refl
  · next r rest queued =>
    split
    · next due =>
      split
      · exact .completes ⟨due.1, queued⟩ (Aside.refl.completes _ _ _)
      · exact h r rest ⟨due.1, queued⟩ due.2
    · exact .refl

theorem takeCommand_deed_of_completes {wanted : Option CommandKind} {body : CommandRecord → State → Verdict × State}
    {s : State} (h : ∀ r u, Completes u (body r u)) : Deed s (takeCommand wanted body s) :=
  takeCommand_deed fun r rest taking _ => .completes taking (h r (s.takeHead rest))

theorem revoke_deed (s : State) : Deed s (takeCommand (some .revoke) revokeBody s) := by
  refine takeCommand_deed fun r rest taking kind => ?_
  unfold revokeBody
  split
  · next resolves =>
    have live := (State.resolves_iff.mp resolves).1
    exact .opens taking (CommandRecord.revoking_of_kind kind (by simp)) (integrityRead_aside live)
      (.trans (.other (State.takeHead_blocks s rest)) (integrityRead_leads live).reaches)
      ⟨List.filter_sublist, (handleSlot r.handle = ·), fun j => by rw [State.mem_revokeMembers]; simp [eq_comm]⟩
  · exact .completes taking (Aside.refl.completes _ _ _)

theorem revokeAgent_deed (s : State) : Deed s (takeCommand (some .revokeAgent) revokeAgentBody s) :=
  takeCommand_deed fun _ rest taking kind =>
    .opens taking (CommandRecord.revoking_of_kind kind (by simp)) (integrityScan_aside _)
      (.trans (.other (State.takeHead_blocks s rest)) (integrityScan_leads _).reaches)
      ⟨List.filter_sublist, _, fun _ => State.mem_agentMembers⟩

theorem purge_deed (s : State) : Deed s (takeCommand (some .purge) purgeBody s) :=
  takeCommand_deed fun _ rest taking kind =>
    .opens taking (CommandRecord.revoking_of_kind kind (by simp)) .refl (.other rfl)
      ⟨List.Sublist.refl _, fun _ => True, fun j => by simp⟩

theorem barrier_deed (s : State) : Deed s (takeCommand (some .barrier) barrierBody s) := by
  refine takeCommand_deed fun r rest taking _ => ?_
  unfold barrierBody
  split
  · exact .completes taking (Aside.refl.completes _ _ _)
  · exact .waits taking

/-! ## Resets and host writes -/

theorem softReset_deed (s : State) : Deed s (softReset s) := .resets rfl rfl id

theorem inResetState_deed (generations : GrantTable) (s : State) : Deed s (inResetState generations s) :=
  .resets rfl rfl fun _ => show (1000 : Nat) ≤ 65535 by decide

theorem acknowledgeFault_inner (v : Word) (s : State) : (acknowledgeFault v s).inner = s.inner := by
  unfold acknowledgeFault
  split <;> rfl

theorem selectFault_inner (v : Word) (s : State) : (selectFault v s).inner = s.inner := by
  unfold selectFault
  split <;> rfl

theorem writeControl_does (v : Word) (s : State) : Does s (writeControl v s) := by
  unfold writeControl
  dsimp only
  split
  · exact (softReset_deed s).does
  · have inner : (if v.getLsbD 3 then clearPushRefused s else s).inner = s.inner := by split <;> rfl
    have blocks : (if v.getLsbD 3 then clearPushRefused s else s).blocks = s.blocks := by split <;> rfl
    split
    · exact ⟨_, inner, blocks, .discard⟩
    · split
      · exact ⟨_, inner, blocks, .resume⟩
      · exact .of_inner inner

theorem hostWrite_does (reg : BitVec 5) (v : Word) (s : State) : Does s (hostWrite reg v s) := by
  unfold hostWrite
  split
  · exact writeControl_does v s
  · exact Does.of_inner rfl
  · exact Does.of_inner rfl
  · exact Does.of_inner rfl
  · exact Does.of_inner rfl
  · exact Does.of_inner rfl
  · exact Does.of_inner rfl
  · exact Does.of_inner rfl
  · exact Does.of_inner rfl
  · exact Deed.push.does
  · exact Deed.pop.does
  · exact Does.of_inner (selectFault_inner v s)
  · exact Does.of_inner (acknowledgeFault_inner v s)
  · exact Deed.refl.does

/-! ## The service port -/

theorem judgeAgentRead_inner (b : Byte) (s : State) : (judgeAgentRead b s).inner = s.inner := by
  unfold judgeAgentRead
  split <;> rfl

theorem judgeHold_inner (opcode : Byte) (value : Bool) (b : Byte) (s : State) :
    (judgeHold opcode value b s).inner = s.inner := by
  unfold judgeHold
  split <;> rfl

theorem judgeGrantRead_deed (hi lo : Byte) (s : State) : Deed s (judgeGrantRead hi lo s) := by
  unfold judgeGrantRead
  split
  · exact .of_inner rfl
  · next i _ =>
    split
    · exact .of_inner rfl
    · have read : Aside s (grantReadCheck i s) ∧ (grantReadCheck i s).owesNotice = s.owesNotice := by
        unfold grantReadCheck
        split
        · exact ⟨.refl, rfl⟩
        · next used => exact ⟨integrityRead_aside used, integrityRead_owesNotice i s⟩
      exact .stops (read.1.trans (.of_inner rfl)) read.2

theorem judgedAfter_deed {received : List Byte} {judge : State → State} {s : State} (h : (judge s).inner = s.inner) :
    Deed s (judgedAfter received judge s) := by
  unfold judgedAfter
  split
  · exact .of_inner h
  · exact .refl

theorem grantRead_deed (lo : Byte) (s : State) : Deed s (grantRead lo s) := by
  unfold grantRead
  split
  · exact .refl
  · exact judgeGrantRead_deed _ lo s

theorem commandByte_deed (b : Byte) (s : State) : Deed s (commandByte b s) := by
  unfold commandByte
  split
  · split <;> exact .of_inner rfl
  · split
    · exact .of_inner (judgeAgentRead_inner b s)
    · exact .of_inner (judgeHold_inner _ _ b s)
    · exact .of_inner (judgeHold_inner _ _ b s)
    · exact .of_inner rfl
  · exact judgeGrantRead_deed _ b s

theorem receiveByte_deed (b : Byte) (s : State) : Deed s (receiveByte b s) := by
  unfold receiveByte
  split
  · exact .refl
  · exact commandByte_deed b s
  · unfold answerByte
    split <;> exact .of_inner rfl
  · exact .of_inner rfl

/-! ## Every command -/

theorem happening_does {f : State → State} {s t : State} (h : happening f s = .next t) (hf : ∀ u, Does u (f u)) :
    Does s t := by
  cases reset : s.inReset with
  | true =>
    rw [happening_in_reset reset] at h
    cases h
    exact Does.of_inner rfl
  | false =>
    rw [happening_of_running reset] at h
    cases h
    exact hf s.quiet

theorem happening_deed {f : State → State} {s t : State} (h : happening f s = .next t) (hf : ∀ u, Deed u (f u)) :
    Does s t := happening_does h fun u => (hf u).does

/-- Every command is one deed. -/
theorem exec_does {c : Instr} {s t : State} (h : exec c s = .next t) : Does s t := by
  cases c with
  | powerOnReset => cases h; exact (inResetState_deed _ s).does
  | hardwareReset => cases h; exact (inResetState_deed _ s).does
  | softReset => exact happening_deed h softReset_deed
  | requestPresented a q => exact happening_deed h (presentRequest_deed a q)
  | accessTake => exact happening_deed h accessTake_deed
  | memoryCompletion k status data => exact happening_deed h (memoryCompletion_deed k status data)
  | freeing i => exact happening_deed h (freeing_deed i)
  | retireCompletion k => exact happening_deed h fun _ => .retireCompletion k
  | barrierCompletion => exact happening_deed h fun _ => .barrierCompletion
  | leaseTick => exact happening_deed h fun _ => .leaseTick
  | lapse i => exact happening_deed h fun _ => .lapse i
  | owedNoticePosted => exact happening_deed h fun _ => .owedNoticePosted
  | drainTimeout k => exact happening_deed h fun _ => .drainTimeout k
  | push v => exact happening_deed h fun _ => .push
  | pop v => exact happening_deed h fun _ => .pop
  | resume => exact happening_deed h fun _ => .resume
  | discard => exact happening_deed h fun _ => .discard
  | pushRefusedClear => exact happening_deed h fun _ => .of_inner rfl
  | discardRemoval => exact happening_deed h fun _ => .discardRemoval
  | errorClear v => exact happening_deed h fun _ => .of_inner rfl
  | faultAck v => exact happening_deed h fun u => .of_inner (acknowledgeFault_inner v u)
  | faultSelect v => exact happening_deed h fun u => .of_inner (selectFault_inner v u)
  | intEnable v => exact happening_deed h fun _ => .of_inner rfl
  | registerWrite reg v => exact happening_does h (hostWrite_does reg v)
  | create => exact happening_deed h fun _ => takeCommand_deed_of_completes createBody_completes
  | derive => exact happening_deed h fun _ => takeCommand_deed_of_completes deriveBody_completes
  | modify => exact happening_deed h fun _ => takeCommand_deed_of_completes modifyBody_completes
  | query => exact happening_deed h fun _ => takeCommand_deed_of_completes queryBody_completes
  | revoke => exact happening_deed h revoke_deed
  | revokeAgent => exact happening_deed h revokeAgent_deed
  | purge => exact happening_deed h purge_deed
  | barrier => exact happening_deed h barrier_deed
  | agentSet => exact happening_deed h fun _ => takeCommand_deed_of_completes agentSetBody_completes
  | quarantine => exact happening_deed h fun _ => takeCommand_deed_of_completes (moveAgent_completes _ _)
  | release => exact happening_deed h fun _ => takeCommand_deed_of_completes (moveAgent_completes _ _)
  | excludeSet => exact happening_deed h fun _ => takeCommand_deed_of_completes excludeSetBody_completes
  | freeze => exact happening_deed h fun _ => takeCommand_deed_of_completes freezeBody_completes
  | configure => exact happening_deed h fun _ => takeCommand_deed_of_completes configureBody_completes
  | unknownKindCode => exact happening_deed h fun _ => takeCommand_deed_of_completes fun _ => refuse_completes _
  | statusRead => exact happening_deed h fun _ => judgedAfter_deed rfl
  | errorRead => exact happening_deed h fun _ => judgedAfter_deed rfl
  | agentRead b => exact happening_deed h fun u => judgedAfter_deed (judgeAgentRead_inner b u)
  | grantRead b => exact happening_deed h (grantRead_deed b)
  | hold b => exact happening_deed h fun u => judgedAfter_deed (judgeHold_inner _ _ b u)
  | unhold b => exact happening_deed h fun u => judgedAfter_deed (judgeHold_inner _ _ b u)
  | badFrame b =>
    refine happening_deed h fun u => ?_
    split
    · exact judgedAfter_deed rfl
    · exact .refl
  | resetRelease => cases h; split <;> exact Does.of_inner rfl
  | csAsserted => cases h; split <;> exact Does.of_inner rfl
  | csDeasserted => cases h; exact Does.of_inner rfl
  | fullByteReceived b => exact happening_deed h (receiveByte_deed b)

/-- What every deed keeps, every command keeps. -/
theorem keptByEveryCommand_of_deed {Inv : State → Prop} (h : ∀ s t, Deed s t → Inv s → Inv t) : KeptByEveryCommand Inv := by
  intro c s t hs he
  obtain ⟨u, inner, -, deed⟩ := exec_does he
  exact h u t deed (h s u (.of_inner inner) hs)

end Sys2Proof.Machine
end

section
/-! What comes before the settling of a happening: countdowns, lapses, timeouts and owed notices. -/

namespace Sys2Proof.Machine

/-! ## The open operations -/

/-- An operation but for its timer and its flag. -/
def RetireOp.core (op : RetireOp) : RetireOp := { op with drainRemaining := none, abandoned := false }

theorem RetireOp.core_eq_iff {op op' : RetireOp} : op.core = op'.core ↔ op.kind = op'.kind ∧ op.tag = op'.tag ∧
    op.target = op'.target ∧ op.members = op'.members := by
  simp [RetireOp.core]

theorem State.openCount_congr {s t : State} (h : ∀ k : RetireIx, t.retire[k].isSome = s.retire[k].isSome) :
    t.openCount = s.openCount := by
  unfold State.openCount
  rw [vector_toList_eq_map, vector_toList_eq_map, List.countP_map, List.countP_map]
  exact List.countP_congr fun k _ => by simp only [Function.comp_apply, h k]

theorem State.openCount_of_retire {s t : State} (h : t.retire = s.retire) : t.openCount = s.openCount :=
  State.openCount_congr fun k => by rw [h]

theorem freeAll_openCount (s : State) : (freeAll s).openCount = s.openCount :=
  State.openCount_congr (freeAll_retire_isSome s)

/-! ## Work that the settling follows -/

/-- Time passes, notices are posted or owed, and places are freed, while the processor, the command queue and the
reservations stand, and the open operations but for their timers. -/
structure Stirs (s u : State) : Prop where
  queue     : u.commandQueue = s.commandQueue
  reserved  : u.reserved = s.reserved
  processor : u.processor = s.processor
  config    : u.config = s.config
  places    : s.responseQueue.length + s.reserved ≤ 32 → u.responseQueue.length + u.reserved ≤ 32
  run       : s.runState = .stopped → u.runState = .stopped
  ops       : ∀ k : RetireIx, u.retire[k].map RetireOp.core = s.retire[k].map RetireOp.core
  drains    : DrainingStays s u

theorem Stirs.trans {s u t : State} (h : Stirs s u) (h' : Stirs u t) : Stirs s t where
  queue := h'.queue.trans h.queue
  reserved := h'.reserved.trans h.reserved
  processor := h'.processor.trans h.processor
  config := h'.config.trans h.config
  places := h'.places ∘ h.places
  run := h'.run ∘ h.run
  ops k := (h'.ops k).trans (h.ops k)
  drains := h.drains.trans h'.drains

/-- What such work leaves as it stands. -/
def State.standing (s : State) : List CommandRecord × Nat × Processor × DeviceConfig × Vector (Option RetireOp) 8 :=
  (s.commandQueue, s.reserved, s.processor, s.config, s.retire)

/-- Work on grants, response records and errors alone. -/
theorem Stirs.of_records {s u : State} (same : u.standing = s.standing)
    (places : s.responseQueue.length + s.reserved ≤ 32 → u.responseQueue.length + s.reserved ≤ 32)
    (run : s.runState = .stopped → u.runState = .stopped) (drains : DrainingStays s u) : Stirs s u := by
  simp only [State.standing, Prod.mk.injEq] at same
  obtain ⟨queue, reserved, processor, config, retire⟩ := same
  exact ⟨queue, reserved, processor, config, fun h => by rw [reserved]; exact places h, run, fun k => by rw [retire], drains⟩

theorem Stirs.refl {s : State} : Stirs s s := .of_records rfl id id (.of_grants rfl)

theorem foldl_stirs {α : Type} {f : State → α → State} (h : ∀ s x, Stirs s (f s x)) (l : List α) (s : State) :
    Stirs s (l.foldl f s) := by
  induction l generalizing s with
  | nil => exact .refl
  | cons x rest ih => exact (h s x).trans (ih _)

theorem Stirs.openCount {s u : State} (h : Stirs s u) : u.openCount = s.openCount :=
  State.openCount_congr fun k => by
    have := congrArg Option.isSome (h.ops k)
    rwa [Option.isSome_map, Option.isSome_map] at this

/-- A write of one slot's lease, flag or notice. -/
theorem setGrant_drains {s : State} {i : SlotIx} {g : Grant} (parent : g.parent = (s.grant i).parent)
    (state : g.state = (s.grant i).state) : DrainingStays s (s.setGrant i g) := by
  refine .of_records (fun j => ?_) fun j hj => ?_
  · rw [State.grant_setGrant]
    split
    · next same => rw [same, parent]
    · rfl
  · rw [State.grant_setGrant]
    split
    · next same => rw [state, ← same]; exact hj
    · exact hj

theorem popped_stirs {s : State} {head : ResponseRecord} {tail : List ResponseRecord} (h : s.responseQueue = head :: tail) :
    Stirs s { s with responseQueue := tail } :=
  .of_records rfl (fun places => by rw [h, List.length_cons] at places; exact (by omega : tail.length + s.reserved ≤ 32)) id
    (.of_grants rfl)

/-- Owed notices are posted into unreserved places (R64). -/
theorem postOwed_stirs (n : Nat) (s : State) : Stirs s (postOwed n s) := by
  induction n generalizing s with
  | zero => exact .refl
  | succ n ih =>
    unfold postOwed
    split
    · exact .refl
    · next place =>
      rw [State.unreserved_eq_zero] at place
      split
      · exact .refl
      · split
        · exact .refl
        · next i _ _ notice _ =>
          have posted : Stirs s (postOwedOf i notice s) := by
            have served : DrainingStays s (s.setGrant i { s.grant i with noticeOwed := none }) := setGrant_drains rfl rfl
            refine .of_records rfl (fun _ => ?_) id (served.trans (.of_grants rfl))
            show (s.responseQueue ++ [_]).length + s.reserved ≤ 32
            rw [List.length_append, List.length_singleton]
            omega
          exact posted.trans (ih _)

theorem countdown_stirs (s : State) : Stirs s (countdown s) := by
  have grant (i : SlotIx) : (countdown s).grant i = countLease (s.grant i) :=
    State.grant_updateGrants s (fun _ g => countLease g) i rfl
  refine ⟨rfl, rfl, rfl, rfl, id, id, fun k => ?_, .of_records (fun i => ?_) fun i hi => ?_⟩
  · show (s.retire.map (Option.map RetireOp.countDrain))[k].map _ = _
    rw [Fin.getElem_fin, Vector.getElem_map, Option.map_map]
    rfl
  · rw [grant]; unfold countLease; split <;> rfl
  · rw [grant]; unfold countLease; rw [if_neg (by rw [hi]; decide)]; exact hi

/-- A lapse offers its notice where a place is unreserved, and else the grant owes it (R123–R125). -/
theorem lapseGrant_stirs (s : State) (i : SlotIx) : Stirs s (lapseGrant s i) := by
  have drained : Stirs s (lapseDrained s i) := by
    refine .of_records (by rw [lapseDrained_frame]; rfl) (fun h => by rwa [lapseDrained_frame])
      (fun h => by rwa [lapseDrained_frame]) (.of_records (fun j => ?_) fun j hj => ?_)
    · rw [lapseDrained_grant]
      split
      · next same => rw [same]
      · split <;> rfl
    · rw [lapseDrained_grant]
      split
      · next same =>
        subst same
        show (if _ then GrantState.draining else (s.grant j).state) = .draining
        rw [hj, ite_self]
      · split
        · rfl
        · exact hj
  have read (u : State) : Stirs u (integrityRead i u) :=
    .of_records (by rw [integrityRead_frame]; rfl) (fun h => by rwa [integrityRead_frame]) integrityRead_runState
      (.of_records (integrityRead_parent i u) fun j hj => (integrityRead_state i u j).trans hj)
  have noticed (n : Notice) (u : State) : Stirs u (offerNotice i n u) := by
    refine .of_records (by rw [offerNotice_frame]; rfl) (fun h => ?_) (fun h => by rwa [offerNotice_frame])
      (.of_records (fun j => ?_) fun j hj => (offerNotice_state i n u j).trans hj)
    · rw [offerNotice_frame]
      show (if _ then u.responseQueue else u.responseQueue ++ [ResponseRecord.notice n]).length + u.reserved ≤ 32
      split
      · exact h
      · rw [List.length_append, List.length_singleton]; omega
    · rw [offerNotice_grant]
      split
      · next same => rw [same.1]
      · rfl
  rw [lapseGrant_eq]
  exact (drained.trans (read _)).trans (noticed _ _)

/-- A timeout writes the timer and the flag of its own operation alone (R113). -/
theorem timeoutRetire_retire (s : State) (k j : RetireIx) :
    (timeoutRetire s k).retire[j] = s.retire[j] ∧ (j = k → s.retire[j] = none) ∨
    (j = k ∧ ∃ op flag, s.retire[j] = some op ∧
      (timeoutRetire s k).retire[j] = some { op with drainRemaining := none, abandoned := flag }) := by
  by_cases own : j = k
  · subst own
    cases slot : s.retire[j] with
    | none => exact .inl ⟨by simp only [timeoutRetire, slot], fun _ => rfl⟩
    | some op =>
      refine .inr ⟨rfl, op, op.abandoned || s.tracker.toList.any fun e => decide (e.state = .issued ∧ e.grant ∈ op.members),
        rfl, ?_⟩
      rw [timeoutRetire_eq slot]
      simp [timeoutState]
  · refine .inl ⟨?_, fun c => absurd c own⟩
    cases slot : s.retire[k] with
    | none => simp only [timeoutRetire, slot]
    | some op =>
      rw [timeoutRetire_eq slot]
      exact setRetire_get_of_ne (s := s) own _

theorem timeoutRetire_stirs (s : State) (k : RetireIx) : Stirs s (timeoutRetire s k) := by
  have grants : (timeoutRetire s k).grants = s.grants := by rw [timeoutRetire_frame]
  refine ⟨by rw [timeoutRetire_frame], by rw [timeoutRetire_frame], by rw [timeoutRetire_frame],
    by rw [timeoutRetire_frame], fun h => by rwa [timeoutRetire_frame], fun h => ?_, fun j => ?_, .of_grants grants⟩
  · cases slot : s.retire[k] with
    | none => simpa only [timeoutRetire, slot] using h
    | some op =>
      rw [timeoutRetire_eq slot]
      show (if _ then RunState.stopped else s.runState) = .stopped
      rw [h, ite_self]
  · rcases timeoutRetire_retire s k j with ⟨same, -⟩ | ⟨-, op, flag, slot, spent⟩
    · rw [same]
    · rw [slot, spent]; rfl

theorem timeoutRetires_stirs (ks : List RetireIx) (s : State) : Stirs s (timeoutRetires ks s) :=
  (foldl_stirs timeoutRetire_stirs ks s).trans (.of_records rfl id id (.of_grants rfl))

theorem tickStages_stirs (s : State) : Stirs s (tickStages s) :=
  ((countdown_stirs s).trans (foldl_stirs lapseGrant_stirs _ _)).trans (timeoutRetires_stirs _ _)

end Sys2Proof.Machine
end

section
/-! The queues keep their bounds and the reservations their count (R59, R62). -/

namespace Sys2Proof.Machine

/-! ## A take that is due -/

/-- What the take test found: no notice owed, an unreserved place, and a FREE retire slot for a revoking command (R67). -/
theorem Taking.tested {s : State} {r : CommandRecord} {rest : List CommandRecord} (h : Taking s r rest) :
    s.processor.state = .idle ∧ s.owesNotice = false ∧ s.responseQueue.length + s.reserved < 32 ∧
      (r.revoking = true → s.openCount ≠ 8) := by
  obtain ⟨due, queued⟩ := h
  unfold State.takeDue at due
  simp only [Bool.and_eq_true, decide_eq_true_eq] at due
  obtain ⟨⟨idle, -⟩, settled⟩ := due
  unfold takeTestState at settled
  simp only [queued] at settled
  split at settled
  · cases settled
  · next clear =>
    split at settled
    · cases settled
    · next slot =>
      rw [not_or, State.unreserved_eq_zero, not_le] at clear
      exact ⟨idle, by simpa using clear.1, clear.2, fun revoking full => slot ⟨revoking, full⟩⟩

/-! ## Counting the open operations -/

theorem State.openCount_setRetire_some {s : State} {k : RetireIx} (free : s.retire[k] = none) (op : RetireOp) :
    (s.setRetire k (some op)).openCount = s.openCount + 1 :=
  vector_countP_set_of_not s.retire k (some op) (p := Option.isSome) (by rw [free]; rfl)

theorem State.openCount_setRetire_none {s : State} {k : RetireIx} {op : RetireOp} (slot : s.retire[k] = some op) :
    (s.setRetire k none).openCount + 1 = s.openCount := by
  have free : (s.setRetire k none).retire[k] = none := by simp [State.setRetire]
  have again : ((s.setRetire k none).setRetire k (some op)).retire = s.retire := vector_set_set_of_get slot
  rw [← State.openCount_setRetire_some free op, State.openCount_of_retire again]

/-! ## The processor -/

theorem QueuesSound.congr {s t : State} (hs : QueuesSound s) (commands : t.commandQueue.length ≤ 32)
    (places : t.responseQueue.length + t.reserved ≤ 32) (reserved : t.reserved = s.reserved) (opens : t.openCount = s.openCount)
    (processor : t.processor = s.processor) : QueuesSound t where
  commands := commands
  places := places
  reserved := by rw [reserved, opens, processor]; exact hs.reserved
  barrier := by rw [processor]; exact hs.barrier
  waiting := by rw [processor]; exact hs.waiting

theorem QueuesSound.of_control {s t : State} (hs : QueuesSound s) (h : t.control = s.control) : QueuesSound t := by
  obtain ⟨queue, records, reserved, processor, retire⟩ := control_eq_iff.mp h
  exact hs.congr (queue ▸ hs.commands) (by rw [records, reserved]; exact hs.places) reserved
    (State.openCount_of_retire retire) processor

/-- No BARRIER waits outside BARRIER_WAIT and STOPPED. -/
theorem QueuesSound.untagged {s : State} (hs : QueuesSound s) (waits : s.processor.state ≠ .barrierWait)
    (stopped : s.processor.state ≠ .stopped) : s.processor.barrierTag = none := by
  rw [← Option.not_isSome_iff_eq_none]
  exact fun c => (hs.barrier c).elim waits stopped

/-- The processor may move on where no BARRIER waits, and stop everywhere. -/
theorem QueuesSound.withProcessor {s : State} (hs : QueuesSound s) {p : Processor}
    (tag : p.barrierTag = s.processor.barrierTag)
    (moves : p.state = .stopped ∨ (p.state ≠ .barrierWait ∧ s.processor.barrierTag = none)) :
    QueuesSound { s with processor := p } where
  commands := hs.commands
  places := hs.places
  reserved := (congrArg (fun t : Option Byte => s.openCount + if t.isSome then 1 else 0) tag).symm ▸ hs.reserved
  barrier c := moves.elim .inr fun m => by
    rw [show p.barrierTag = none from tag.trans m.2] at c
    cases c
  waiting c := by
    rcases moves with m | m
    · rw [m] at c; cases c
    · exact absurd c m.1

theorem QueuesSound.setProc {s : State} (hs : QueuesSound s) {p : ProcState} (waits : s.processor.state ≠ .barrierWait)
    (stopped : s.processor.state ≠ .stopped) (target : p ≠ .barrierWait) : QueuesSound (s.setProc p) :=
  hs.withProcessor rfl (.inr ⟨target, hs.untagged waits stopped⟩)

theorem ProcState.tested_cases {p : ProcState} (h : p.tested = true) : p ≠ .barrierWait ∧ p ≠ .stopped := by
  constructor <;> rintro rfl <;> cases h

theorem QueuesSound.takeTest {s : State} (hs : QueuesSound s) : QueuesSound (takeTest s) := by
  cases tested : s.processor.state.tested with
  | false => rw [takeTest_untested tested]; exact hs
  | true =>
    rw [takeTest_tested tested]
    obtain ⟨waits, stopped⟩ := ProcState.tested_cases tested
    exact hs.setProc waits stopped (ProcState.tested_cases (takeTestState_tested s)).1

theorem QueuesSound.stopProcessor {s : State} (hs : QueuesSound s) : QueuesSound (stopProcessor s) := by
  unfold Machine.stopProcessor
  split
  · exact hs
  · exact hs.withProcessor rfl (.inl rfl)

/-! ## Settling -/

theorem QueuesSound.stirs {s u : State} (hs : QueuesSound s) (h : Stirs s u) : QueuesSound u :=
  hs.congr (h.queue ▸ hs.commands) (h.places hs.places) h.reserved h.openCount h.processor

theorem QueuesSound.freeAll {s : State} (hs : QueuesSound s) : QueuesSound (freeAll s) :=
  hs.congr (by rw [freeAll_frame]; exact hs.commands) (by rw [freeAll_frame]; exact hs.places)
    (by rw [freeAll_frame]) (freeAll_openCount s) (by rw [freeAll_frame])

/-- An operation completed but for what follows in the processor (R109, R111). -/
def retireDone (k : RetireIx) (op : RetireOp) (s : State) : State :=
  ((if op.kind = .purge then purgeEffects s else s).postReserved op.completion).setRetire k none

theorem completeRetire_eq (k : RetireIx) (op : RetireOp) (s : State) :
    completeRetire k op s = processorAfterRetire op.kind (retireDone k op s) := rfl

theorem retireDone_control (k : RetireIx) (op : RetireOp) (s : State) : (retireDone k op s).control =
    ⟨s.commandQueue, s.responseQueue ++ [.completion op.completion], s.reserved - 1, s.processor, s.retire.set k none⟩ := by
  unfold retireDone
  split <;> rfl

theorem QueuesSound.processorAfterRetire {s : State} (hs : QueuesSound s) (kind : RetireKind) :
    QueuesSound (processorAfterRetire kind s) := by
  unfold Machine.processorAfterRetire
  split
  · next purging =>
    exact (hs.setProc (by rw [purging.2]; decide) (by rw [purging.2]; decide) (by decide)).takeTest
  · exact hs.takeTest

/-- A completed operation uses its reservation (R62, R109). -/
theorem QueuesSound.completeRetire {s : State} {k : RetireIx} {op : RetireOp} (hs : QueuesSound s)
    (slot : s.retire[k] = some op) : QueuesSound (completeRetire k op s) := by
  have opens := State.openCount_setRetire_none slot
  have count := hs.reserved
  have places := hs.places
  have done : QueuesSound ((s.postReserved op.completion).setRetire k none) := by
    refine ⟨hs.commands, ?_, ?_, hs.barrier, hs.waiting⟩
    · show (s.responseQueue ++ [_]).length + (s.reserved - 1) ≤ 32
      rw [List.length_append, List.length_singleton]
      omega
    · show s.reserved - 1 = (s.setRetire k none).openCount + if s.processor.barrierTag.isSome then 1 else 0
      omega
  exact (done.of_control (retireDone_control k op s)).processorAfterRetire op.kind

theorem QueuesSound.completeIfEmpty {s : State} (hs : QueuesSound s) (k : RetireIx) : QueuesSound (completeIfEmpty s k) := by
  unfold Machine.completeIfEmpty
  split
  · exact hs
  · next slot =>
    split
    · exact hs.completeRetire slot
    · exact hs

theorem QueuesSound.foldl_completeIfEmpty {s : State} (hs : QueuesSound s) (l : List RetireIx) :
    QueuesSound (l.foldl Machine.completeIfEmpty s) := by
  induction l generalizing s with
  | nil => exact hs
  | cons k rest ih => exact ih (hs.completeIfEmpty k)

/-- A completed BARRIER uses its reservation, the only one left (R62, R75). -/
theorem QueuesSound.completeBarrier {s : State} (hs : QueuesSound s) : QueuesSound (completeBarrier s) := by
  unfold Machine.completeBarrier
  split
  · exact hs
  · next tag waits =>
    split
    · exact hs
    · next none =>
      have count := hs.reserved
      have places := hs.places
      rw [not_not.mp none, waits] at count
      have done {p : Processor} (untagged : p.barrierTag = Option.none) (state : p.state ≠ .barrierWait) :
          QueuesSound { s.postReserved (barrierCompletionRecord tag) with processor := p } := by
        refine ⟨hs.commands, ?_, ?_, fun c => ?_, fun c => absurd c state⟩
        · show (s.responseQueue ++ [_]).length + (s.reserved - 1) ≤ 32
          rw [List.length_append, List.length_singleton, count]
          rw [count] at places
          exact places
        · show s.reserved - 1 = s.openCount + if p.barrierTag.isSome then 1 else 0
          rw [count, not_not.mp none, untagged]; rfl
        · rw [show _ = Option.none from untagged] at c; cases c
      split
      · exact (done rfl fun c => by cases c).takeTest
      · next stopped => exact done rfl (by rw [stopped]; decide)
      all_goals exact hs

theorem QueuesSound.settle {s : State} (hs : QueuesSound s) : QueuesSound (settle s) :=
  (hs.freeAll.foldl_completeIfEmpty _).completeBarrier

/-! ## Takes -/

/-- A command that completes posts into the place its take reserved (R68). -/
theorem QueuesSound.endTake {s u : State} {r : CommandRecord} {rest : List CommandRecord} {v : Verdict} (hs : QueuesSound s)
    (taking : Taking s r rest) (completes : v ≠ .stays) (h : u.control = (s.takeHead rest).control) :
    QueuesSound (endTake r v u) := by
  obtain ⟨idle, -, place, -⟩ := taking.tested
  obtain ⟨queue, records, reserved, processor, retire⟩ := control_eq_iff.mp h
  have commands := hs.commands
  rw [taking.queued, List.length_cons] at commands
  have posted (c : Completion) : QueuesSound (u.postReserved c) := by
    refine hs.congr ?_ ?_ ?_ (State.openCount_of_retire retire) processor
    · show u.commandQueue.length ≤ 32
      rw [queue]
      exact Nat.le_of_succ_le commands
    · show (u.responseQueue ++ [_]).length + (u.reserved - 1) ≤ 32
      rw [records, reserved, List.length_append, List.length_singleton]
      show s.responseQueue.length + 1 + (s.reserved + 1 - 1) ≤ 32
      omega
    · show u.reserved - 1 = s.reserved
      rw [reserved]; rfl
  cases v with
  | stays => exact absurd rfl completes
  | completes st handle res =>
    have idle_posted : u.processor.state = .idle := by rw [processor]; exact idle
    refine QueuesSound.stopProcessor ?_
    split
    · exact (posted _).setProc (by rw [State.postReserved_processor, idle_posted]; decide)
        (by rw [State.postReserved_processor, idle_posted]; decide) (by decide)
    · exact (posted _).takeTest

/-- A due take leaves the BARRIER's place reserved (R75). -/
theorem QueuesSound.barrierWaits {s : State} {r : CommandRecord} {rest : List CommandRecord} (hs : QueuesSound s)
    (taking : Taking s r rest) : QueuesSound { s.takeHead rest with
      processor := { s.processor with state := .barrierWait, barrierTag := some r.tag } } := by
  obtain ⟨idle, -, place, -⟩ := taking.tested
  have commands := hs.commands
  have count := hs.reserved
  rw [taking.queued, List.length_cons] at commands
  rw [hs.untagged (by rw [idle]; decide) (by rw [idle]; decide)] at count
  refine ⟨Nat.le_of_succ_le commands, ?_, ?_, fun _ => .inl rfl, fun _ => rfl⟩
  · show s.responseQueue.length + (s.reserved + 1) ≤ 32
    omega
  · show s.reserved + 1 = s.openCount + 1
    rw [count]; rfl

/-! ### Revoking commands -/

/-- A take of a revoking command finds a FREE retire slot (R67, R101). -/
theorem Taking.freeRetire {s u : State} {r : CommandRecord} {rest : List CommandRecord} (taking : Taking s r rest)
    (revoking : r.revoking = true) (h : u.retire = s.retire) : ∃ k, u.freeRetire = some k ∧ s.retire[k] = none := by
  obtain ⟨-, -, -, slot⟩ := taking.tested
  cases found : u.freeRetire with
  | none =>
    refine absurd (State.openCount_eq_eight.mpr fun k c => ?_) (slot revoking)
    have := find?_allBelow_none.mp found k
    rw [h, c] at this
    cases this
  | some k => exact ⟨k, rfl, by rw [← h]; exact (State.freeRetire_eq_some found).1⟩

theorem openOperation_eq {u : State} {k : RetireIx} (free : u.freeRetire = some k) (kind : RetireKind) (r : CommandRecord)
    (target : Option Handle) (members : List SlotIx) : openOperation kind r target members u =
      afterOpening kind k (completeTakes k (drainMembers members
        (u.setRetire k (some (openedOp kind r.tag target members u.config.drainTimeout))))) := by
  unfold openOperation
  rw [free]

theorem drainMembers_openCount (members : List SlotIx) (s : State) : (drainMembers members s).openCount = s.openCount := by
  unfold drainMembers
  split
  · exact freeAll_openCount _
  · rfl

/-- What the draining of members leaves of the queues. -/
theorem drainMembers_frame (members : List SlotIx) (s : State) : drainMembers members s = { s with
    grants := (drainMembers members s).grants
    freeList := (drainMembers members s).freeList
    retire := (drainMembers members s).retire } := by
  unfold drainMembers
  split
  · rw [freeAll_frame]; rfl
  · rfl

theorem QueuesSound.drainMembers {members : List SlotIx} {s : State} (hs : QueuesSound s) :
    QueuesSound (drainMembers members s) :=
  hs.congr (by rw [drainMembers_frame]; exact hs.commands) (by rw [drainMembers_frame]; exact hs.places)
    (by rw [drainMembers_frame]) (drainMembers_openCount _ _) (drainMembers_processor _ _)

/-- The completions of a take leave the processor in a state of the take test. -/
theorem completeTakes_tested {s : State} (idle : s.processor.state = .idle) (k : RetireIx) :
    (completeTakes k s).processor.state.tested = true := by
  have tested : (retired s (s.doneAmong (takeOrder k))).processor.state.tested = true := by
    show s.processor.state.tested = true
    rw [idle]; rfl
  rcases completeTakes_eq (s := s) (k := k) (by rw [idle]; decide) with h | h
  · rw [h]; exact tested
  · rw [h, takeTest_tested tested]; exact takeTestState_tested _

theorem QueuesSound.afterOpening {s : State} (hs : QueuesSound s) (tested : s.processor.state.tested = true)
    (kind : RetireKind) (k : RetireIx) : QueuesSound (afterOpening kind k s) := by
  unfold Machine.afterOpening
  split
  · exact hs.setProc (ProcState.tested_cases tested).1 (ProcState.tested_cases tested).2 (by decide)
  · exact hs.takeTest

/-- The operation that opens holds the place its take reserved, until it completes (R62, R101). -/
theorem QueuesSound.openOperation {s u : State} {r : CommandRecord} {rest : List CommandRecord} (hs : QueuesSound s)
    (taking : Taking s r rest) (revoking : r.revoking = true) (h : u.control = (s.takeHead rest).control) (kind : RetireKind)
    (target : Option Handle) (members : List SlotIx) : QueuesSound (openOperation kind r target members u) := by
  obtain ⟨idle, -, place, -⟩ := taking.tested
  obtain ⟨queue, records, reserved, processor, retire⟩ := control_eq_iff.mp h
  obtain ⟨k, found, free⟩ := taking.freeRetire revoking retire
  have commands := hs.commands
  have count := hs.reserved
  rw [taking.queued, List.length_cons] at commands
  have untagged := hs.untagged (by rw [idle]; decide) (by rw [idle]; decide)
  have opened (op : RetireOp) : QueuesSound (u.setRetire k (some op)) := by
    have opens : (u.setRetire k (some op)).openCount = s.openCount + 1 :=
      (State.openCount_setRetire_some (by rw [retire]; exact free) op).trans
        (congrArg (· + 1) (State.openCount_of_retire retire))
    refine ⟨?_, ?_, ?_, ?_, ?_⟩
    · show u.commandQueue.length ≤ 32
      rw [queue]
      exact Nat.le_of_succ_le commands
    · show u.responseQueue.length + u.reserved ≤ 32
      rw [records, reserved]
      exact place
    · show u.reserved = _ + if u.processor.barrierTag.isSome then 1 else 0
      rw [opens, reserved, processor]
      show s.reserved + 1 = s.openCount + 1 + if s.processor.barrierTag.isSome then 1 else 0
      omega
    · show u.processor.barrierTag.isSome = true → _
      rw [processor, show (s.takeHead rest).processor.barrierTag = none from untagged]
      exact fun c => nomatch c
    · show u.processor.state = .barrierWait → _
      rw [processor, show (s.takeHead rest).processor.state = .idle from idle]
      exact fun c => nomatch c
  rw [openOperation_eq found]
  refine QueuesSound.afterOpening ?_ (completeTakes_tested ?_ k) kind k
  · rw [completeTakes_eq_foldl]
    exact (opened _).drainMembers.foldl_completeIfEmpty _
  · rw [drainMembers_processor, State.setRetire_processor, processor]
    exact idle

/-! ## Host writes, resets and the rest -/

theorem QueuesSound.pushCommand {s : State} (hs : QueuesSound s) : QueuesSound (pushCommand s) := by
  have pushed (room : s.commandQueue.length < 32) : QueuesSound { s with commandQueue := s.commandQueue ++ [s.staging] } :=
    hs.congr (by rw [List.length_append, List.length_singleton]; omega) hs.places rfl rfl rfl
  unfold Machine.pushCommand
  split
  · exact hs.of_control rfl
  · next room =>
    dsimp only
    split
    · exact (pushed (not_le.mp room)).takeTest
    · exact pushed (not_le.mp room)

theorem QueuesSound.popResponse {s : State} (hs : QueuesSound s) : QueuesSound (popResponse s) := by
  unfold Machine.popResponse
  split
  · exact hs
  · next queued =>
    have popped := hs.stirs (popped_stirs queued)
    dsimp only
    split
    · exact (popped.stirs (postOwed_stirs 32 _)).settle.takeTest
    · exact popped.takeTest

theorem QueuesSound.resumeAction {s : State} (hs : QueuesSound s) : QueuesSound (resumeAction s) := by
  unfold Machine.resumeAction
  split
  · next halted => exact (hs.setProc (by rw [halted]; decide) (by rw [halted]; decide) (by decide)).takeTest
  · exact hs

theorem QueuesSound.discardAction {s : State} (hs : QueuesSound s) : QueuesSound (discardAction s) := by
  unfold Machine.discardAction
  split
  · next halted =>
    split
    · exact (hs.setProc (by rw [halted]; decide) (by rw [halted]; decide) (by decide)).takeTest
    · exact hs.withProcessor rfl
        (.inr ⟨fun c => (nomatch c), hs.untagged (by rw [halted]; decide) (by rw [halted]; decide)⟩)
  · exact hs

theorem QueuesSound.discardRemoval {s : State} (hs : QueuesSound s) : QueuesSound (discardRemoval s) := by
  unfold Machine.discardRemoval
  split
  · exact hs
  · next r rest queued =>
    split
    · next due =>
      obtain ⟨discarding, -, place⟩ := due
      rw [ne_eq, State.unreserved_eq_zero, not_le] at place
      have commands := hs.commands
      rw [queued, List.length_cons] at commands
      have posted : QueuesSound { s.post (.completion (discardedRecord r)) with commandQueue := rest } := by
        refine hs.congr (Nat.le_of_succ_le commands) ?_ rfl rfl rfl
        show (s.responseQueue ++ [_]).length + s.reserved ≤ 32
        rw [List.length_append, List.length_singleton]
        omega
      have removed := posted.withProcessor (p := { s.processor with discardCount := s.processor.discardCount - 1 }) rfl
        (.inr ⟨by rw [discarding]; decide, hs.untagged (by rw [discarding]; decide) (by rw [discarding]; decide)⟩)
      dsimp only
      split
      · exact (removed.setProc (by rw [discarding]; decide) (by rw [discarding]; decide) (by decide)).takeTest
      · exact removed
    · exact hs

theorem QueuesSound.withClock {s : State} (hs : QueuesSound s) (c : LeaseClock) : QueuesSound { s with clock := c } :=
  hs.of_control rfl

theorem QueuesSound.deed {s t : State} (h : Deed s t) (hs : QueuesSound s) : QueuesSound t := by
  cases h with
  | aside h _ _ => exact hs.of_control h.control
  | stops h _ => exact (hs.of_control h.control).stopProcessor
  | settles h _ _ => exact (hs.of_control h.control).settle
  | resets fresh _ _ => exact stateAfterResetIsSound.2.1.of_control fresh
  | push => exact hs.pushCommand
  | pop => exact hs.popResponse
  | resume => exact hs.resumeAction
  | discard => exact hs.discardAction
  | discardRemoval => exact hs.discardRemoval
  | retireCompletion k =>
    unfold retireCompletion
    split
    · exact hs
    · next slot =>
      split
      · exact (hs.completeRetire slot).completeBarrier
      · exact hs
  | barrierCompletion => exact hs.completeBarrier
  | owedNoticePosted =>
    unfold owedNoticePosted
    split
    · exact hs
    · exact (hs.stirs (postOwed_stirs 1 s)).settle.takeTest
  | drainTimeout k =>
    unfold drainTimeout
    split
    · exact (hs.stirs (timeoutRetires_stirs _ s)).settle.stopProcessor
    · exact hs
  | lapse i =>
    unfold lapse
    split
    · exact (hs.stirs (lapseGrant_stirs s i)).settle.takeTest.stopProcessor
    · exact hs
  | leaseTick =>
    have settled := (hs.stirs (tickStages_stirs s)).settle
    unfold leaseTick
    generalize Machine.settle (tickStages s) = u at settled ⊢
    exact (settled.withClock _).takeTest.stopProcessor
  | completes taking h => exact hs.endTake taking h.completes h.aside.control
  | waits taking => exact (hs.barrierWaits taking).stopProcessor
  | opens taking revoking h _ _ => exact (hs.openOperation taking revoking h.control _ _ _).stopProcessor

/-- Settles O52: each deed keeps the bounds and the count. -/
theorem queuesStayBounded : Obligations.QueuesStayBounded := keptByEveryCommand_of_deed fun _ _ h hs => hs.deed h

end Sys2Proof.Machine
end

section
/-! The processor stays consistent with the run state, the discard count and the take test (R66, R67, R72, R77). -/

namespace Sys2Proof.Machine

/-! ## The parts of the invariant -/

/-- The processor is STOPPED in a stopped device alone, and counts discards exactly while DISCARDING: what holds also within a
happening, before the device's stop reaches the processor. -/
structure ProcessorRuns (s : State) : Prop where
  stopped    : s.processor.state = .stopped → s.runState = .stopped
  discarding : s.processor.state = .discarding →
    0 < s.processor.discardCount ∧ s.processor.discardCount ≤ s.commandQueue.length
  otherwise  : s.processor.state ≠ .discarding → s.processor.discardCount = 0

/-- The stop of the device has reached the processor (R77). -/
def State.HaltsWithDevice (s : State) : Prop := s.runState = .stopped → s.processor.state = .stopped

theorem ProcessorSound.runs {s : State} (h : ProcessorSound s) : ProcessorRuns s :=
  ⟨h.stopped.mp, h.discarding, h.otherwise⟩

theorem ProcessorSound.halts {s : State} (h : ProcessorSound s) : s.HaltsWithDevice := h.stopped.mpr

theorem ProcessorRuns.sound {s : State} (h : ProcessorRuns s) (halts : s.HaltsWithDevice) (settled : takeTest s = s) :
    ProcessorSound s := ⟨⟨h.stopped, halts⟩, h.discarding, h.otherwise, settled⟩

theorem ProcessorRuns.of_other {s : State} (stopped : s.processor.state ≠ .stopped)
    (discarding : s.processor.state ≠ .discarding) (count : s.processor.discardCount = 0) : ProcessorRuns s :=
  ⟨fun c => absurd c stopped, fun c => absurd c discarding, fun _ => count⟩

/-- At the end of a happening a stopped device has its processor STOPPED (R77, R162). -/
theorem ProcessorRuns.stop {s : State} (h : ProcessorRuns s) (settled : takeTest s = s) : ProcessorSound (stopProcessor s) := by
  cases run : s.runState with
  | running =>
    rw [stopProcessor_running run]
    exact h.sound (fun c => by rw [run] at c; cases c) settled
  | stopped =>
    rw [stopProcessor_stopped run]
    exact ⟨⟨fun _ => run, fun _ => rfl⟩, fun c => (nomatch c), fun _ => rfl, rfl⟩

/-! ## Settled by the take test -/

theorem settled_iff {s : State} : takeTest s = s ↔
    (s.processor.state.tested = true → s.processor.state = takeTestState s) := by
  cases tested : s.processor.state.tested with
  | false => simp [takeTest_untested tested]
  | true =>
    rw [takeTest_tested tested]
    refine ⟨fun h _ => (congrArg (fun t => t.processor.state) h).symm, fun h => ?_⟩
    unfold State.setProc
    rw [← h rfl]

theorem settled_congr {s t : State} (settled : takeTest s = s) (test : takeTestState t = takeTestState s)
    (processor : t.processor = s.processor) : takeTest t = t := by
  rw [settled_iff] at settled ⊢
  rwa [processor, test]

theorem takeTestState_of_inner {s t : State} (h : t.inner = s.inner) : takeTestState t = takeTestState s := by
  obtain ⟨control, grants, -⟩ := inner_eq_iff.mp h
  obtain ⟨queue, records, reserved, -, retire⟩ := control_eq_iff.mp control
  exact takeTestState_congr queue (State.owesNotice_congr fun _ => by rw [State.grant_congr grants])
    (by rw [records, reserved]) (State.openCount_of_retire retire)

/-- The test reads of the queue its head alone. -/
theorem takeTestState_append {s : State} (h : s.commandQueue ≠ []) (r : CommandRecord) :
    takeTestState { s with commandQueue := s.commandQueue ++ [r] } = takeTestState s := by
  obtain ⟨head, tail, queue⟩ := List.exists_cons_of_ne_nil h
  unfold takeTestState
  simp only [queue, List.cons_append]
  rfl

/-! ## Freeing and completions -/

/-- A slot that owes a notice is not freed (R8). -/
theorem freeSlot_noticeOwed {s : State} {i : SlotIx} (eligible : s.eligible i = true) (j : SlotIx) :
    ((freeSlot i s).grant j).noticeOwed = (s.grant j).noticeOwed := by
  by_cases own : j = i
  · subst own
    rw [(State.eligible_iff.mp eligible).2.2.2]
    show ((unlinkChild (s.grant j).parent j (s.setGrant j (freeRecord _))).grant j).noticeOwed = none
    unfold unlinkChild
    cases (s.grant j).parent with
    | none => rw [State.grant_setGrant_same]; rfl
    | some p =>
      rw [State.grant_setGrant, State.grant_setGrant]
      split
      · next same => rw [← same, if_pos rfl]; rfl
      · rw [State.grant_setGrant_same]; rfl
  · obtain ⟨c, same⟩ := freeSlot_children i s own
    rw [same]

theorem freeLoop_noticeOwed (n : Nat) (s : State) (j : SlotIx) :
    ((freeLoop n s).grant j).noticeOwed = (s.grant j).noticeOwed := by
  induction n generalizing s with
  | zero => rfl
  | succ n ih =>
    cases next : s.slots.find? s.eligible with
    | none => rw [freeLoop_of_none (State.find_eligible_none.mp next)]
    | some i => rw [freeLoop_succ_of_find next, ih, freeSlot_noticeOwed (List.find?_some next)]

theorem freeAll_settled {s : State} (h : takeTest s = s) : takeTest (freeAll s) = freeAll s :=
  settled_congr h (takeTestState_congr (by rw [freeAll_frame]) (State.owesNotice_congr (freeLoop_noticeOwed 1024 s))
    (by rw [freeAll_frame]) (freeAll_openCount s)) (by rw [freeAll_frame])

/-- How the processor can move in the settling of a happening. -/
structure ProcessorMoves (s t : State) : Prop where
  run        : t.runState = s.runState
  queue      : t.commandQueue = s.commandQueue
  count      : t.processor.discardCount = s.processor.discardCount
  stopped    : t.processor.state = .stopped ↔ s.processor.state = .stopped
  discarding : t.processor.state = .discarding ↔ s.processor.state = .discarding

theorem ProcessorMoves.trans {s u t : State} (h : ProcessorMoves s u) (h' : ProcessorMoves u t) : ProcessorMoves s t :=
  ⟨h'.run.trans h.run, h'.queue.trans h.queue, h'.count.trans h.count, h'.stopped.trans h.stopped,
    h'.discarding.trans h.discarding⟩

theorem ProcessorMoves.of_same {s t : State} (run : t.runState = s.runState) (queue : t.commandQueue = s.commandQueue)
    (processor : t.processor = s.processor) : ProcessorMoves s t :=
  ⟨run, queue, by rw [processor], by rw [processor], by rw [processor]⟩

theorem ProcessorMoves.refl {s : State} : ProcessorMoves s s := .of_same rfl rfl rfl

theorem ProcessorRuns.moves {s t : State} (hs : ProcessorRuns s) (h : ProcessorMoves s t) : ProcessorRuns t where
  stopped c := h.run.trans (hs.stopped (h.stopped.mp c))
  discarding c := by rw [h.count, h.queue]; exact hs.discarding (h.discarding.mp c)
  otherwise c := by rw [h.count]; exact hs.otherwise (mt h.discarding.mpr c)

theorem State.HaltsWithDevice.moves {s t : State} (hs : s.HaltsWithDevice) (h : ProcessorMoves s t) : t.HaltsWithDevice :=
  fun c => h.stopped.mpr (hs (h.run.symm.trans c))

/-- A state of the processor that is neither STOPPED nor DISCARDING. -/
def ProcState.plain (p : ProcState) : Prop := p ≠ .stopped ∧ p ≠ .discarding

theorem ProcState.plain_of_tested {p : ProcState} (h : p.tested = true) : p.plain := by
  constructor <;> rintro rfl <;> cases h

theorem ProcessorMoves.of_plain {s t : State} (run : t.runState = s.runState) (queue : t.commandQueue = s.commandQueue)
    (count : t.processor.discardCount = s.processor.discardCount) (source : s.processor.state.plain)
    (target : t.processor.state.plain) : ProcessorMoves s t :=
  ⟨run, queue, count, iff_of_false target.1 source.1, iff_of_false target.2 source.2⟩

theorem ProcessorRuns.of_setProc {s : State} {p : ProcState} (plain : p.plain) (count : s.processor.discardCount = 0) :
    ProcessorRuns (s.setProc p) := .of_other plain.1 plain.2 count

theorem takeTest_moves (s : State) : ProcessorMoves s (takeTest s) := by
  cases tested : s.processor.state.tested with
  | false => rw [takeTest_untested tested]; exact .refl
  | true =>
    rw [takeTest_tested tested]
    exact .of_plain rfl rfl rfl (ProcState.plain_of_tested tested) (ProcState.plain_of_tested (takeTestState_tested s))

theorem processorAfterRetire_moves (kind : RetireKind) (s : State) : ProcessorMoves s (processorAfterRetire kind s) := by
  unfold processorAfterRetire
  split
  · next purging =>
    have idle : ProcessorMoves s (s.setProc .idle) :=
      .of_plain rfl rfl rfl (by rw [purging.2]; exact ⟨by decide, by decide⟩) (ProcState.plain_of_tested rfl)
    exact idle.trans (takeTest_moves _)
  · exact takeTest_moves s

theorem completeRetire_moves (k : RetireIx) (op : RetireOp) (s : State) : ProcessorMoves s (completeRetire k op s) := by
  have done : ProcessorMoves s (retireDone k op s) := by
    unfold retireDone
    split <;> exact .of_same rfl rfl rfl
  exact done.trans (processorAfterRetire_moves _ _)

theorem completeIfEmpty_moves (s : State) (k : RetireIx) : ProcessorMoves s (completeIfEmpty s k) := by
  unfold completeIfEmpty
  split
  · exact .refl
  · split
    · exact completeRetire_moves _ _ s
    · exact .refl

theorem foldl_completeIfEmpty_moves (l : List RetireIx) (s : State) : ProcessorMoves s (l.foldl completeIfEmpty s) := by
  induction l generalizing s with
  | nil => exact .refl
  | cons k rest ih => exact (completeIfEmpty_moves s k).trans (ih _)

theorem completeBarrier_moves (s : State) : ProcessorMoves s (completeBarrier s) := by
  unfold completeBarrier
  split
  · exact .refl
  · split
    · exact .refl
    · split
      · next waits =>
        have idle (t : Byte) : ProcessorMoves s { s.postReserved (barrierCompletionRecord t) with
            processor := { s.processor with state := .idle, barrierTag := none } } :=
          .of_plain rfl rfl rfl (by rw [waits]; exact ⟨by decide, by decide⟩) (ProcState.plain_of_tested rfl)
        exact (idle _).trans (takeTest_moves _)
      · next stopped =>
        exact ⟨rfl, rfl, rfl, iff_of_true stopped stopped, iff_of_false (by rw [stopped]; decide) (by rw [stopped]; decide)⟩
      all_goals exact .refl

theorem settle_moves (s : State) : ProcessorMoves s (settle s) := by
  have freed : ProcessorMoves s (freeAll s) :=
    .of_same (by rw [freeAll_frame]) (by rw [freeAll_frame]) (by rw [freeAll_frame])
  exact (freed.trans (foldl_completeIfEmpty_moves _ _)).trans (completeBarrier_moves _)

theorem completeRetire_settled (k : RetireIx) (op : RetireOp) (s : State) :
    takeTest (completeRetire k op s) = completeRetire k op s := by
  rw [completeRetire_eq]
  unfold processorAfterRetire
  split <;> exact takeTest_takeTest _

theorem completeRetires_settled {s : State} (h : takeTest s = s) : takeTest (completeRetires s) = completeRetires s := by
  rw [completeRetires_eq]
  split
  · exact h
  · exact takeTest_takeTest _

theorem completeBarrier_settled {s : State} (h : takeTest s = s) : takeTest (completeBarrier s) = completeBarrier s := by
  unfold completeBarrier
  split
  · exact h
  · split
    · exact h
    · split
      · exact takeTest_takeTest _
      · next stopped => exact takeTest_untested (by show s.processor.state.tested = false; rw [stopped]; rfl)
      all_goals exact h

theorem settle_settled {s : State} (h : takeTest s = s) : takeTest (settle s) = settle s :=
  completeBarrier_settled (completeRetires_settled (freeAll_settled h))

/-! ## The deeds -/

theorem ProcessorSound.settle {s : State} (hs : ProcessorSound s) : ProcessorSound (settle s) :=
  (hs.runs.moves (settle_moves s)).sound (hs.halts.moves (settle_moves s)) (settle_settled hs.settled)

theorem ProcessorSound.completeBarrier {s : State} (hs : ProcessorSound s) : ProcessorSound (completeBarrier s) :=
  (hs.runs.moves (completeBarrier_moves s)).sound (hs.halts.moves (completeBarrier_moves s))
    (completeBarrier_settled hs.settled)

/-- Work that the take test follows. -/
theorem ProcessorRuns.takeTest_sound {s : State} (h : ProcessorRuns s) (halts : s.HaltsWithDevice) :
    ProcessorSound (takeTest s) :=
  (h.moves (takeTest_moves s)).sound (halts.moves (takeTest_moves s)) (takeTest_takeTest s)

theorem ProcessorRuns.takeTest_stop {s : State} (h : ProcessorRuns s) : ProcessorSound (stopProcessor (takeTest s)) :=
  (h.moves (takeTest_moves s)).stop (takeTest_takeTest s)

theorem ProcessorRuns.stirs {s u : State} (hs : ProcessorRuns s) (h : Stirs s u) : ProcessorRuns u where
  stopped c := h.run (hs.stopped (h.processor ▸ c))
  discarding c := by rw [h.processor, h.queue]; exact hs.discarding (h.processor ▸ c)
  otherwise c := by rw [h.processor]; exact hs.otherwise (h.processor ▸ c)

theorem ProcessorRuns.aside {s u : State} (hs : ProcessorRuns s) (h : Aside s u) : ProcessorRuns u := by
  obtain ⟨queue, -, -, processor, -⟩ := control_eq_iff.mp h.control
  exact ⟨fun c => h.run (hs.stopped (processor ▸ c)), fun c => by rw [processor, queue]; exact hs.discarding (processor ▸ c),
    fun c => by rw [processor]; exact hs.otherwise (processor ▸ c)⟩

theorem Aside.settled {s u : State} (h : Aside s u) (owes : u.owesNotice = s.owesNotice) (settled : takeTest s = s) :
    takeTest u = u := by
  obtain ⟨queue, records, reserved, processor, retire⟩ := control_eq_iff.mp h.control
  exact settled_congr settled (takeTestState_congr queue owes (by rw [records, reserved]) (State.openCount_of_retire retire))
    processor

theorem ProcessorSound.aside {s u : State} (hs : ProcessorSound s) (h : Aside s u) (owes : u.owesNotice = s.owesNotice)
    (run : u.runState = s.runState) : ProcessorSound u := by
  obtain ⟨-, -, -, processor, -⟩ := control_eq_iff.mp h.control
  exact (hs.runs.aside h).sound (fun c => by rw [processor]; exact hs.halts (run.symm.trans c)) (h.settled owes hs.settled)

/-- A HALTED processor returns to IDLE and its take test (R71, R72). -/
theorem ProcessorSound.resumed {s : State} (hs : ProcessorSound s) (halted : s.processor.state = .halted) :
    ProcessorSound (takeTest (s.setProc .idle)) := by
  have moves : ProcessorMoves s (s.setProc .idle) :=
    .of_plain rfl rfl rfl (by rw [halted]; exact ⟨by decide, by decide⟩) (ProcState.plain_of_tested rfl)
  exact (hs.runs.moves moves).takeTest_sound (hs.halts.moves moves)

theorem ProcessorSound.pushCommand {s : State} (hs : ProcessorSound s) : ProcessorSound (pushCommand s) := by
  have pushed : ProcessorRuns { s with commandQueue := s.commandQueue ++ [s.staging] } := by
    refine ⟨hs.stopped.mp, fun c => ?_, hs.otherwise⟩
    obtain ⟨low, high⟩ := hs.discarding c
    exact ⟨low, high.trans (by rw [List.length_append]; exact Nat.le_add_right _ _)⟩
  unfold Machine.pushCommand
  split
  · exact ⟨hs.stopped, hs.discarding, hs.otherwise, settled_congr hs.settled (takeTestState_of_inner rfl) rfl⟩
  · dsimp only
    split
    · exact pushed.takeTest_sound hs.halts
    · next queued =>
      exact pushed.sound hs.halts (settled_congr hs.settled (takeTestState_append (by simpa using queued) _) rfl)

theorem postOwed_runState (n : Nat) (s : State) : (postOwed n s).runState = s.runState := by
  induction n generalizing s with
  | zero => rfl
  | succ n ih =>
    unfold postOwed
    split
    · rfl
    · split
      · rfl
      · split
        · rfl
        · exact ih _

/-- Notices posted, the settling after them and the take test (R64, R65). -/
theorem ProcessorSound.noticesPosted {s u : State} (hs : ProcessorSound s) (h : Stirs s u) (run : u.runState = s.runState)
    (n : Nat) : ProcessorSound (takeTest (Machine.settle (postOwed n u))) := by
  have stirs := h.trans (postOwed_stirs n u)
  have same := (postOwed_runState n u).trans run
  generalize postOwed n u = v at stirs same ⊢
  have halts : v.HaltsWithDevice := fun c => by rw [stirs.processor]; exact hs.halts (same.symm.trans c)
  exact ((hs.runs.stirs stirs).moves (settle_moves v)).takeTest_sound (halts.moves (settle_moves v))

theorem ProcessorSound.popResponse {s : State} (hs : ProcessorSound s) : ProcessorSound (popResponse s) := by
  unfold Machine.popResponse
  split
  · exact hs
  · next queued =>
    have popped := popped_stirs queued
    dsimp only
    split
    · exact hs.noticesPosted popped rfl 32
    · exact (hs.runs.stirs popped).takeTest_sound hs.halts

theorem ProcessorSound.resumeAction {s : State} (hs : ProcessorSound s) : ProcessorSound (resumeAction s) := by
  unfold Machine.resumeAction
  split
  · next halted => exact hs.resumed halted
  · exact hs

/-- A discard counts the records that the queue holds (R72). -/
theorem ProcessorSound.discardAction {s : State} (hs : ProcessorSound s) : ProcessorSound (discardAction s) := by
  unfold Machine.discardAction
  split
  · next halted =>
    split
    · exact hs.resumed halted
    · next queued =>
      have records : s.commandQueue ≠ [] := by simpa using queued
      refine ⟨⟨fun c => (nomatch c), fun c => ?_⟩, fun _ => ⟨List.length_pos_of_ne_nil records, le_refl _⟩,
        fun c => absurd rfl c, rfl⟩
      have := hs.halts c
      rw [halted] at this
      cases this
  · exact hs

theorem ProcessorSound.discardRemoval {s : State} (hs : ProcessorSound s) : ProcessorSound (discardRemoval s) := by
  unfold Machine.discardRemoval
  split
  · exact hs
  · next r rest queued =>
    split
    · next due =>
      have discarding := due.1
      obtain ⟨low, high⟩ := hs.discarding discarding
      have running : s.runState ≠ .stopped := fun c => by
        have := hs.halts c
        rw [discarding] at this
        cases this
      rw [queued, List.length_cons] at high
      dsimp only
      split
      · next last =>
        exact (ProcessorRuns.of_setProc ⟨by decide, by decide⟩ (Nat.sub_eq_zero_of_le last)).takeTest_sound
          fun c => absurd c running
      · next more =>
        refine ⟨⟨fun c => ?_, fun c => absurd c running⟩, fun _ => ?_, fun c => absurd discarding c, ?_⟩
        · rw [show _ = ProcState.discarding from discarding] at c; cases c
        · show 0 < s.processor.discardCount - 1 ∧ s.processor.discardCount - 1 ≤ rest.length
          omega
        · exact takeTest_untested (by show s.processor.state.tested = false; rw [discarding]; rfl)
    · exact hs

/-! ### Timeouts -/

/-- The take test reads neither timers nor flags (R67). -/
theorem timeoutRetire_settled {s : State} (settled : takeTest s = s) (k : RetireIx) :
    takeTest (timeoutRetire s k) = timeoutRetire s k := by
  have stirs := timeoutRetire_stirs s k
  have grants : (timeoutRetire s k).grants = s.grants := by rw [timeoutRetire_frame]
  exact settled_congr settled (takeTestState_congr stirs.queue
    (State.owesNotice_congr fun _ => by rw [State.grant_congr grants]) (by rw [timeoutRetire_frame]) stirs.openCount)
    stirs.processor

theorem timeoutRetires_settled {s : State} (settled : takeTest s = s) (ks : List RetireIx) :
    takeTest (timeoutRetires ks s) = timeoutRetires ks s := by
  have folded : takeTest (ks.foldl timeoutRetire s) = ks.foldl timeoutRetire s := by
    induction ks generalizing s with
    | nil => exact settled
    | cons k rest ih => exact ih (timeoutRetire_settled settled k)
  exact settled_congr folded (takeTestState_of_inner rfl) rfl

/-! ### Takes -/

theorem ProcessorSound.takeCount {s u : State} {r : CommandRecord} {rest : List CommandRecord} (hs : ProcessorSound s)
    (taking : Taking s r rest) (h : u.processor = s.processor) :
    u.processor.state = .idle ∧ u.processor.discardCount = 0 := by
  rw [h]
  exact ⟨taking.tested.1, hs.otherwise (by rw [taking.tested.1]; decide)⟩

theorem ProcessorRuns.of_idle {s : State} (state : s.processor.state = .idle) (count : s.processor.discardCount = 0) :
    ProcessorRuns s := .of_other (by rw [state]; decide) (by rw [state]; decide) count

theorem ProcessorRuns.of_tested {s : State} (state : s.processor.state.tested = true) (count : s.processor.discardCount = 0) :
    ProcessorRuns s := .of_other (ProcState.plain_of_tested state).1 (ProcState.plain_of_tested state).2 count

/-- A command that completes leaves the processor HALTED, or makes the take test (R68, R70). -/
theorem ProcessorSound.endTake {s u : State} {r : CommandRecord} {rest : List CommandRecord} {v : Verdict}
    (hs : ProcessorSound s) (taking : Taking s r rest) (completes : v ≠ .stays) (h : u.processor = s.processor) :
    ProcessorSound (endTake r v u) := by
  obtain ⟨idle, count⟩ := hs.takeCount taking h
  cases v with
  | stays => exact absurd rfl completes
  | completes st handle res =>
    unfold Machine.endTake
    dsimp only
    split
    · exact (ProcessorRuns.of_setProc (s := u.postReserved _) (p := .halted) ⟨by decide, by decide⟩ count).stop
        (takeTest_untested rfl)
    · exact (ProcessorRuns.of_idle (s := u.postReserved _) idle count).takeTest_stop

theorem ProcessorSound.openOperation {s u : State} {r : CommandRecord} {rest : List CommandRecord} (hs : ProcessorSound s)
    (taking : Taking s r rest) (revoking : r.revoking = true) (h : u.control = (s.takeHead rest).control) (kind : RetireKind)
    (target : Option Handle) (members : List SlotIx) :
    ProcessorSound (stopProcessor (openOperation kind r target members u)) := by
  obtain ⟨-, -, -, processor, retire⟩ := control_eq_iff.mp h
  obtain ⟨idle, count⟩ := hs.takeCount taking processor
  obtain ⟨k, found, -⟩ := taking.freeRetire revoking retire
  rw [openOperation_eq found]
  generalize opened : drainMembers members _ = d
  have standing : d.processor = u.processor := by rw [← opened, drainMembers_processor]; rfl
  have tested := completeTakes_tested (s := d) (by rw [standing]; exact idle) k
  have counted : (completeTakes k d).processor.discardCount = 0 := by
    rw [completeTakes_eq_foldl, (foldl_completeIfEmpty_moves _ d).count, standing]
    exact count
  unfold afterOpening
  split
  · exact (ProcessorRuns.of_setProc ⟨by decide, by decide⟩ counted).stop (takeTest_untested rfl)
  · exact (ProcessorRuns.of_tested tested counted).takeTest_stop

/-! ### Every deed -/

theorem ProcessorSound.deed {s t : State} (h : Deed s t) (hs : ProcessorSound s) : ProcessorSound t := by
  cases h with
  | aside h owes run => exact hs.aside h owes run
  | stops h owes => exact (hs.runs.aside h).stop (h.settled owes hs.settled)
  | settles h owes run => exact (hs.aside h owes run).settle
  | resets fresh run _ =>
    obtain ⟨queue, -, -, processor, -⟩ := control_eq_iff.mp fresh
    refine (ProcessorRuns.of_idle (by rw [processor]; rfl) (by rw [processor]; rfl)).sound
      (fun c => by rw [run] at c; cases c) (settled_iff.mpr fun _ => ?_)
    unfold takeTestState
    rw [queue, processor]
    rfl
  | push => exact hs.pushCommand
  | pop => exact hs.popResponse
  | resume => exact hs.resumeAction
  | discard => exact hs.discardAction
  | discardRemoval => exact hs.discardRemoval
  | retireCompletion k =>
    unfold retireCompletion
    split
    · exact hs
    · next op _ =>
      split
      · have moves := completeRetire_moves k op s
        exact ((hs.runs.moves moves).sound (hs.halts.moves moves) (completeRetire_settled k op s)).completeBarrier
      · exact hs
  | barrierCompletion => exact hs.completeBarrier
  | owedNoticePosted =>
    unfold owedNoticePosted
    split
    · exact hs
    · exact hs.noticesPosted .refl rfl 1
  | drainTimeout k =>
    unfold drainTimeout
    split
    · exact ((hs.runs.stirs (timeoutRetires_stirs [k] s)).moves (settle_moves _)).stop
        (settle_settled (timeoutRetires_settled hs.settled [k]))
    · exact hs
  | lapse i =>
    unfold lapse
    split
    · exact ((hs.runs.stirs (lapseGrant_stirs s i)).moves (settle_moves _)).takeTest_stop
    · exact hs
  | leaseTick =>
    have settled := (hs.runs.stirs (tickStages_stirs s)).moves (settle_moves _)
    unfold leaseTick
    generalize Machine.settle (tickStages s) = u at settled ⊢
    exact (settled.moves (.of_same (t := { u with clock := u.clock.tick }) rfl rfl rfl)).takeTest_stop
  | completes taking h =>
    obtain ⟨-, -, -, processor, -⟩ := control_eq_iff.mp h.aside.control
    exact hs.endTake taking h.completes processor
  | waits taking =>
    obtain ⟨-, count⟩ := hs.takeCount taking rfl
    exact (ProcessorRuns.of_other (s := { s.takeHead _ with
      processor := { s.processor with state := .barrierWait, barrierTag := some _ } }) (fun c => (nomatch c))
      (fun c => (nomatch c)) count).stop (takeTest_untested rfl)
  | opens taking revoking h _ _ => exact hs.openOperation taking revoking h.control _ _ _

/-- Settles O53: each deed keeps the processor consistent. -/
theorem processorStaysConsistent : Obligations.ProcessorStaysConsistent :=
  keptByEveryCommand_of_deed fun _ _ h hs => hs.deed h

end Sys2Proof.Machine
end

section
/-! The retire set stays sound (R76, R100, R102). -/

namespace Sys2Proof.Machine

/-! ## The parts of the invariant -/

/-- Every open operation meets a condition. -/
def State.EveryOp (s : State) (P : RetireOp → Prop) : Prop := ∀ (k : RetireIx) op, s.retire[k] = some op → P op

/-- A member set: each slot once, DRAINING, and closed under children (R100, R103). -/
structure MembersSound (s : State) (op : RetireOp) : Prop where
  nodup    : op.members.Nodup
  draining : ∀ i ∈ op.members, (s.grant i).state = .draining
  closed   : ∀ i ∈ op.members, ∀ j, (s.grant j).parent = some i → j ∈ op.members

/-- A timer that runs stands in its range (R102). -/
def RetireOp.Timed (op : RetireOp) : Prop := ∀ n, op.drainRemaining = some n → 1 ≤ n ∧ n ≤ 65535

/-- The open operations, of which some may have lost their last member (R100, R102). -/
structure OpsSound (s : State) : Prop where
  members : s.EveryOp (MembersSound s)
  timers  : s.EveryOp RetireOp.Timed
  timeout : s.config.drainTimeout ≤ 65535

/-- A slot holds an open PURGE. -/
def State.PurgeAt (s : State) (k : RetireIx) : Prop := ∃ op, s.retire[k] = some op ∧ op.kind = .purge

/-- The processor waits for a PURGE, or has stopped (R76, R77). -/
def State.Halts (s : State) : Prop := s.processor.state = .purging ∨ s.processor.state = .stopped

/-- At most one PURGE is open, and the processor waits for it (R76). -/
structure PurgeSound (s : State) : Prop where
  one   : ∀ j k, s.PurgeAt j → s.PurgeAt k → j = k
  halts : ∀ k, s.PurgeAt k → s.Halts
  open_ : s.processor.state = .purging → ∃ k, s.PurgeAt k

theorem RetireSound.ops {s : State} (h : RetireSound s) : OpsSound s :=
  ⟨fun k op slot => ⟨h.nodup k op slot, h.draining k op slot, h.closed k op slot⟩, h.timer, h.timeout⟩

theorem RetireSound.purge {s : State} (h : RetireSound s) : PurgeSound s :=
  ⟨fun j k ⟨o, hj, ho⟩ ⟨p, hk, hp⟩ => h.onePurge j k o p hj hk ho hp, fun k ⟨op, slot, kind⟩ => h.purging k op slot kind, h.open_⟩

theorem OpsSound.retireSound {s : State} (h : OpsSound s) (purge : PurgeSound s) (nonempty : s.EveryOp (·.members ≠ [])) :
    RetireSound s where
  nonempty := nonempty
  nodup k op slot := (h.members k op slot).nodup
  draining k op slot := (h.members k op slot).draining
  closed k op slot := (h.members k op slot).closed
  timer := h.timers
  timeout := h.timeout
  onePurge j k o p hj hk ho hp := purge.one j k ⟨o, hj, ho⟩ ⟨p, hk, hp⟩
  purging k op slot kind := purge.halts k ⟨op, slot, kind⟩
  open_ := purge.open_

/-! ## What keeps the operations -/

/-- A member set stays sound where its slots stay DRAINING. -/
theorem MembersSound.drains {s t : State} {op op' : RetireOp} (h : MembersSound s op) (drains : DrainingStays s t)
    (same : op'.members = op.members) : MembersSound t op' where
  nodup := same ▸ h.nodup
  draining i hi := drains.draining i (h.draining i (same ▸ hi))
  closed i hi j hj := by
    rw [same] at hi ⊢
    exact h.closed i hi j (drains.children i j (h.draining i hi) hj)

/-- The open operations of one state are open in another. -/
def Fewer (s t : State) : Prop := ∀ (k : RetireIx) op, t.retire[k] = some op → s.retire[k] = some op

theorem State.EveryOp.fewer {s t : State} {P : RetireOp → Prop} (hs : s.EveryOp P) (h : Fewer s t) : t.EveryOp P :=
  fun k op slot => hs k op (h k op slot)

theorem OpsSound.fewer {s t : State} (hs : OpsSound s) (h : Fewer s t) (drains : DrainingStays s t)
    (timeout : t.config.drainTimeout ≤ 65535) : OpsSound t :=
  ⟨fun k op slot => (hs.members k op (h k op slot)).drains drains rfl, hs.timers.fewer h, timeout⟩

theorem Fewer.of_retire {s t : State} (h : t.retire = s.retire) : Fewer s t := fun k op slot => by rwa [h] at slot

/-- Countdowns, lapses, timeouts and owed notices keep the member sets; the timers are theirs. -/
theorem OpsSound.stirs {s u : State} (hs : OpsSound s) (h : Stirs s u) (timers : u.EveryOp RetireOp.Timed) : OpsSound u where
  members k op slot := by
    have core := h.ops k
    rw [slot] at core
    obtain ⟨before, held, same⟩ := Option.map_eq_some_iff.mp core.symm
    exact (hs.members k before held).drains h.drains (RetireOp.core_eq_iff.mp same).2.2.2.symm
  timers := timers
  timeout := by rw [h.config]; exact hs.timeout

/-! ## What keeps the PURGE -/

theorem PurgeSound.congr {s t : State} (hs : PurgeSound s) (same : ∀ k, t.PurgeAt k ↔ s.PurgeAt k)
    (halts : s.Halts → t.Halts) (enters : t.processor.state = .purging → s.processor.state = .purging) : PurgeSound t where
  one j k hj hk := hs.one j k ((same j).mp hj) ((same k).mp hk)
  halts k hk := halts (hs.halts k ((same k).mp hk))
  open_ h := (hs.open_ (enters h)).imp fun k hk => (same k).mpr hk

theorem PurgeSound.of_none {s : State} (none : ∀ k, ¬ s.PurgeAt k) (state : s.processor.state ≠ .purging) : PurgeSound s :=
  ⟨fun j _ hj => absurd hj (none j), fun k hk => absurd hk (none k), fun c => absurd c state⟩

theorem State.PurgeAt.of_retire {s t : State} (h : t.retire = s.retire) (k : RetireIx) : t.PurgeAt k ↔ s.PurgeAt k := by
  unfold State.PurgeAt
  rw [h]

theorem PurgeSound.stirs {s u : State} (hs : PurgeSound s) (h : Stirs s u) : PurgeSound u := by
  refine hs.congr (fun k => ?_) (fun c => by unfold State.Halts; rw [h.processor]; exact c) fun c => h.processor ▸ c
  have core := h.ops k
  unfold State.PurgeAt
  cases before : s.retire[k] <;> cases after : u.retire[k] <;> rw [before, after] at core
  · cases core
  · cases core
  · have kind := (RetireOp.core_eq_iff.mp (Option.some.inj core)).1
    simp [kind]

/-! ## Work that leaves the table and the retire set alone -/

/-- Work that leaves the table and the retire set alone, whose processor neither enters PURGING nor leaves it but to
STOPPED. -/
structure Calm (s t : State) : Prop where
  retire  : t.retire = s.retire
  grants  : t.grants = s.grants
  timeout : t.config = s.config
  halts   : s.Halts → t.Halts
  enters  : t.processor.state = .purging → s.processor.state = .purging

theorem Calm.refl {s : State} : Calm s s := ⟨rfl, rfl, rfl, id, id⟩

theorem Calm.trans {s u t : State} (h : Calm s u) (h' : Calm u t) : Calm s t :=
  ⟨h'.retire.trans h.retire, h'.grants.trans h.grants, h'.timeout.trans h.timeout, h'.halts ∘ h.halts, h.enters ∘ h'.enters⟩

theorem OpsSound.calm {s t : State} (hs : OpsSound s) (h : Calm s t) : OpsSound t :=
  hs.fewer (.of_retire h.retire) (.of_grants h.grants) (by rw [h.timeout]; exact hs.timeout)

theorem PurgeSound.calm {s t : State} (hs : PurgeSound s) (h : Calm s t) : PurgeSound t :=
  hs.congr (State.PurgeAt.of_retire h.retire) h.halts h.enters

theorem RetireSound.calm {s t : State} (hs : RetireSound s) (h : Calm s t) : RetireSound t :=
  (hs.ops.calm h).retireSound (hs.purge.calm h) (State.EveryOp.fewer hs.nonempty (.of_retire h.retire))

/-- Work that leaves the processor alone. -/
theorem Calm.of_processor {s t : State} (retire : t.retire = s.retire) (grants : t.grants = s.grants)
    (timeout : t.config = s.config) (processor : t.processor = s.processor) : Calm s t :=
  ⟨retire, grants, timeout, fun c => by unfold State.Halts; rw [processor]; exact c, fun c => processor ▸ c⟩

/-- The processor moves between states that have nothing to do with a PURGE. -/
theorem Calm.of_moves {s t : State} (retire : t.retire = s.retire) (grants : t.grants = s.grants)
    (timeout : t.config = s.config) (source : ¬ s.Halts) (target : t.processor.state ≠ .purging) : Calm s t :=
  ⟨retire, grants, timeout, fun c => absurd c source, fun c => absurd c target⟩

theorem State.not_halts {s : State} {p : ProcState} (h : s.processor.state = p) (purging : p ≠ .purging) (stopped : p ≠ .stopped) :
    ¬ s.Halts := by
  unfold State.Halts
  rw [h]
  exact not_or.mpr ⟨purging, stopped⟩

theorem takeTest_not_purging {s : State} (tested : s.processor.state.tested = true) :
    (takeTest s).processor.state ≠ .purging := by
  rw [takeTest_tested tested]
  intro c
  have after := takeTestState_tested s
  rw [show takeTestState s = .purging from c] at after
  cases after

theorem takeTest_calm (s : State) : Calm s (takeTest s) := by
  cases tested : s.processor.state.tested with
  | false => rw [takeTest_untested tested]; exact .refl
  | true =>
    refine .of_moves (by rw [takeTest_frame]) (by rw [takeTest_frame]) (by rw [takeTest_frame]) ?_ (takeTest_not_purging tested)
    rintro (c | c) <;> rw [c] at tested <;> cases tested

theorem stopProcessor_calm (s : State) : Calm s (stopProcessor s) := by
  unfold stopProcessor
  split
  · exact .refl
  · exact ⟨rfl, rfl, rfl, fun _ => .inr rfl, fun c => nomatch c⟩

/-- The processor leaves a state outside PURGING and STOPPED for IDLE and its take test. -/
theorem idle_takeTest_calm {s t : State} (retire : t.retire = s.retire) (grants : t.grants = s.grants)
    (timeout : t.config = s.config) (source : ¬ s.Halts) (idle : t.processor.state = .idle) : Calm s (takeTest t) :=
  (Calm.of_moves retire grants timeout source (by rw [idle]; decide)).trans (takeTest_calm t)

theorem completeBarrier_calm (s : State) : Calm s (completeBarrier s) := by
  unfold completeBarrier
  split
  · exact .refl
  · split
    · exact .refl
    · split
      · next waits => exact idle_takeTest_calm rfl rfl rfl (State.not_halts waits (by decide) (by decide)) rfl
      · exact ⟨rfl, rfl, rfl, id, id⟩
      all_goals exact .refl

theorem pushCommand_calm (s : State) : Calm s (pushCommand s) := by
  have pushed : Calm s { s with commandQueue := s.commandQueue ++ [s.staging] } := .of_processor rfl rfl rfl rfl
  unfold pushCommand
  split
  · exact .of_processor rfl rfl rfl rfl
  · dsimp only
    split
    · exact pushed.trans (takeTest_calm _)
    · exact pushed

theorem resumeAction_calm (s : State) : Calm s (resumeAction s) := by
  unfold resumeAction
  split
  · next halted => exact idle_takeTest_calm rfl rfl rfl (State.not_halts halted (by decide) (by decide)) rfl
  · exact .refl

theorem discardAction_calm (s : State) : Calm s (discardAction s) := by
  unfold discardAction
  split
  · next halted =>
    have source := State.not_halts halted (by decide) (by decide)
    split
    · exact idle_takeTest_calm rfl rfl rfl source rfl
    · exact .of_moves rfl rfl rfl source fun c => nomatch c
  · exact .refl

theorem discardRemoval_calm (s : State) : Calm s (discardRemoval s) := by
  unfold discardRemoval
  split
  · exact .refl
  · split
    · next due =>
      dsimp only
      split
      · exact idle_takeTest_calm rfl rfl rfl (State.not_halts due.1 (by decide) (by decide)) rfl
      · exact ⟨rfl, rfl, rfl, id, id⟩
    · exact .refl

/-! ## Freeing -/

theorem freeSlot_own_parent (i : SlotIx) (s : State) : ((freeSlot i s).grant i).parent = none := by
  show ((unlinkChild (s.grant i).parent i (s.setGrant i (freeRecord _))).grant i).parent = none
  unfold unlinkChild
  cases (s.grant i).parent with
  | none => rw [State.grant_setGrant_same]; rfl
  | some p =>
    rw [State.grant_setGrant, State.grant_setGrant]
    split
    · next same => rw [← same, if_pos rfl]; rfl
    · rw [State.grant_setGrant_same]; rfl

/-- A slot that frees leaves the member sets; it has no children, and the others keep their parents (R9). -/
theorem OpsSound.freeSlot {s : State} {i : SlotIx} (hs : OpsSound s) (eligible : s.eligible i = true) :
    OpsSound (freeSlot i s) := by
  have slots (k : RetireIx) op (h : (Machine.freeSlot i s).retire[k] = some op) :
      ∃ before, s.retire[k] = some before ∧ before.without i = op := by
    rw [freeSlot_retire] at h
    exact Option.map_eq_some_iff.mp h
  have member {op : RetireOp} {j : SlotIx} : j ∈ (op.without i).members ↔ j ∈ op.members ∧ j ≠ i := by
    simp [RetireOp.without]
  refine ⟨fun k op slot => ?_, fun k op slot => ?_, by rw [freeSlot_frame]; exact hs.timeout⟩
  · obtain ⟨before, held, rfl⟩ := slots k op slot
    have sound := hs.members k before held
    refine ⟨sound.nodup.filter _, fun j hj => ?_, fun j hj c hc => ?_⟩
    · rw [freeSlot_state, if_neg (member.mp hj).2]
      exact sound.draining j (member.mp hj).1
    · have apart : c ≠ i := by
        rintro rfl
        have free := freeSlot_own_parent c s
        rw [hc] at free
        cases free
      obtain ⟨children, same⟩ := freeSlot_children i s apart
      rw [same] at hc
      exact member.mpr ⟨sound.closed j (member.mp hj).1 c hc, apart⟩
  · obtain ⟨before, held, rfl⟩ := slots k op slot
    exact hs.timers k before held

theorem freeSlot_purgeAt (i : SlotIx) (s : State) (k : RetireIx) : (freeSlot i s).PurgeAt k ↔ s.PurgeAt k := by
  unfold State.PurgeAt
  rw [freeSlot_retire]
  simp [RetireOp.without]

theorem OpsSound.freeLoop {s : State} (hs : OpsSound s) (n : Nat) : OpsSound (freeLoop n s) := by
  induction n generalizing s with
  | zero => exact hs
  | succ n ih =>
    cases next : s.slots.find? s.eligible with
    | none => rw [freeLoop_of_none (State.find_eligible_none.mp next)]; exact hs
    | some i => rw [freeLoop_succ_of_find next]; exact ih (hs.freeSlot (List.find?_some next))

theorem freeLoop_purgeAt (n : Nat) (s : State) (k : RetireIx) : (freeLoop n s).PurgeAt k ↔ s.PurgeAt k := by
  induction n generalizing s with
  | zero => exact Iff.rfl
  | succ n ih =>
    cases next : s.slots.find? s.eligible with
    | none => rw [freeLoop_of_none (State.find_eligible_none.mp next)]
    | some i => rw [freeLoop_succ_of_find next, ih, freeSlot_purgeAt]

theorem OpsSound.freeAll {s : State} (hs : OpsSound s) : OpsSound (freeAll s) := hs.freeLoop 1024

theorem freeAll_purgeAt (s : State) (k : RetireIx) : (freeAll s).PurgeAt k ↔ s.PurgeAt k := freeLoop_purgeAt 1024 s k

theorem PurgeSound.freeAll {s : State} (hs : PurgeSound s) : PurgeSound (freeAll s) :=
  hs.congr (freeAll_purgeAt s) (fun c => by unfold State.Halts; rw [freeAll_frame]; exact c) fun c => by
    rwa [freeAll_frame] at c

/-! ## Completions -/

theorem retireDone_retire (k j : RetireIx) (op : RetireOp) (s : State) :
    (retireDone k op s).retire[j] = if j = k then none else s.retire[j] := by
  have set : (retireDone k op s).retire = s.retire.set k none := by unfold retireDone; split <;> rfl
  rw [set]
  split
  · next same => subst same; simp
  · next apart => exact setRetire_get_of_ne (s := s) apart none

theorem retireDone_grants (k : RetireIx) (op : RetireOp) (s : State) : (retireDone k op s).grants = s.grants := by
  unfold retireDone; split <;> rfl

theorem retireDone_config (k : RetireIx) (op : RetireOp) (s : State) : (retireDone k op s).config = s.config := by
  unfold retireDone; split <;> rfl

theorem retireDone_processor (k : RetireIx) (op : RetireOp) (s : State) : (retireDone k op s).processor = s.processor := by
  unfold retireDone; split <;> rfl

theorem processorAfterRetire_frame (kind : RetireKind) (s : State) : processorAfterRetire kind s =
    { s with processor := (processorAfterRetire kind s).processor } := by
  unfold processorAfterRetire
  split
  · rw [takeTest_frame]; rfl
  · rw [takeTest_frame]

theorem OpsSound.completeRetire {s : State} (hs : OpsSound s) (k : RetireIx) (op : RetireOp) :
    OpsSound (completeRetire k op s) := by
  have done : OpsSound (retireDone k op s) := by
    refine hs.fewer (fun j o slot => ?_) (.of_grants (retireDone_grants k op s)) (by rw [retireDone_config]; exact hs.timeout)
    rw [retireDone_retire] at slot
    split at slot
    · cases slot
    · exact slot
  rw [completeRetire_eq, processorAfterRetire_frame]
  exact done.fewer (.of_retire rfl) (.of_grants rfl) done.timeout

/-- The completion of a PURGE ends the wait for it; any other leaves it open (R76, R109). -/
theorem PurgeSound.completeRetire {s : State} {k : RetireIx} {op : RetireOp} (hs : PurgeSound s)
    (slot : s.retire[k] = some op) : PurgeSound (completeRetire k op s) := by
  have still (j : RetireIx) : (retireDone k op s).PurgeAt j ↔ j ≠ k ∧ s.PurgeAt j := by
    unfold State.PurgeAt
    rw [retireDone_retire]
    by_cases own : j = k <;> simp [own]
  rw [completeRetire_eq]
  by_cases purge : op.kind = .purge
  · have own : s.PurgeAt k := ⟨op, slot, purge⟩
    have gone (j : RetireIx) : ¬ (Machine.processorAfterRetire op.kind (retireDone k op s)).PurgeAt j := by
      rw [State.PurgeAt.of_retire (s := retireDone k op s) (by rw [processorAfterRetire_frame]), still]
      exact fun c => c.1 (hs.one j k c.2 own)
    refine .of_none gone ?_
    unfold Machine.processorAfterRetire
    rw [retireDone_processor]
    split
    · exact takeTest_not_purging rfl
    · next stopped =>
      have state := (hs.halts k own).resolve_left fun c => stopped ⟨purge, c⟩
      rw [takeTest_untested (by rw [retireDone_processor, state]; rfl), retireDone_processor, state]
      decide
  · unfold Machine.processorAfterRetire
    rw [if_neg fun c => purge c.1]
    have done : PurgeSound (retireDone k op s) := by
      refine hs.congr (fun j => ?_) (fun c => by unfold State.Halts; rw [retireDone_processor]; exact c) fun c => by
        rwa [retireDone_processor] at c
      rw [still]
      refine ⟨And.right, fun hj => ⟨?_, hj⟩⟩
      rintro rfl
      obtain ⟨other, held, kind⟩ := hj
      rw [slot] at held
      exact purge (Option.some.inj held ▸ kind)
    exact done.calm (takeTest_calm _)

theorem completeIfEmpty_sound {s : State} (ops : OpsSound s) (purge : PurgeSound s) (k : RetireIx) :
    OpsSound (completeIfEmpty s k) ∧ PurgeSound (completeIfEmpty s k) := by
  unfold completeIfEmpty
  split
  · exact ⟨ops, purge⟩
  · next slot =>
    split
    · exact ⟨ops.completeRetire k _, purge.completeRetire slot⟩
    · exact ⟨ops, purge⟩

theorem foldl_completeIfEmpty_sound {s : State} (ops : OpsSound s) (purge : PurgeSound s) (l : List RetireIx) :
    OpsSound (l.foldl completeIfEmpty s) ∧ PurgeSound (l.foldl completeIfEmpty s) := by
  induction l generalizing s with
  | nil => exact ⟨ops, purge⟩
  | cons k rest ih =>
    obtain ⟨ops, purge⟩ := completeIfEmpty_sound ops purge k
    exact ih ops purge

/-- No operation is left without members (R109, R110). -/
theorem completeRetires_nonempty (s : State) : (completeRetires s).EveryOp (·.members ≠ []) := by
  intro k op slot
  rw [completeRetires_eq] at slot
  split at slot
  · next none =>
    intro empty
    have done := State.doneIn_eq_some.mpr ⟨slot, empty⟩
    rw [List.filterMap_eq_nil_iff.mp none k (mem_allBelow k)] at done
    cases done
  · have held := Fewer.of_retire (takeTest_calm _).retire k op slot
    rw [retiredAmong_retire, if_pos (mem_allBelow k)] at held
    simpa using (Option.filter_eq_some_iff.mp held).2

/-- The settling of a happening (R110). -/
theorem OpsSound.settle {s : State} (hs : OpsSound s) (purge : PurgeSound s) : RetireSound (settle s) := by
  obtain ⟨ops, purge⟩ := foldl_completeIfEmpty_sound hs.freeAll purge.freeAll (allBelow 8)
  exact (ops.retireSound purge (completeRetires_nonempty _)).calm (completeBarrier_calm _)

/-! ## Timers -/

/-- Timeouts stop the timers that they name (R113). -/
theorem foldl_timeoutRetire_timed {l : List RetireIx} {s : State} (h : ∀ (k : RetireIx) op, s.retire[k] = some op →
    ∀ n, op.drainRemaining = some n → (k ∈ l ∨ 1 ≤ n) ∧ n ≤ 65535) : (l.foldl timeoutRetire s).EveryOp RetireOp.Timed := by
  induction l generalizing s with
  | nil => exact fun k op slot n runs => ⟨(h k op slot n runs).1.resolve_left (by simp), (h k op slot n runs).2⟩
  | cons j rest ih =>
    refine ih fun k op slot n runs => ?_
    rcases timeoutRetire_retire s j k with ⟨same, empty⟩ | ⟨-, before, flag, -, spent⟩
    · rw [same] at slot
      obtain ⟨low, high⟩ := h k op slot n runs
      refine ⟨low.imp_left fun mem => ?_, high⟩
      rcases List.mem_cons.mp mem with own | later
      · rw [empty own] at slot; cases slot
      · exact later
    · rw [spent] at slot
      cases slot
      cases runs

theorem timeoutRetires_timed {l : List RetireIx} {s : State} (h : ∀ (k : RetireIx) op, s.retire[k] = some op →
    ∀ n, op.drainRemaining = some n → (k ∈ l ∨ 1 ≤ n) ∧ n ≤ 65535) : (timeoutRetires l s).EveryOp RetireOp.Timed :=
  foldl_timeoutRetire_timed h

theorem lapseGrant_retire (s : State) (i : SlotIx) : (lapseGrant s i).retire = s.retire := by
  rw [lapseGrant_eq, offerNotice_frame, integrityRead_frame, lapseDrained_frame]

theorem foldl_lapseGrant_retire (l : List SlotIx) (s : State) : (l.foldl lapseGrant s).retire = s.retire := by
  induction l generalizing s with
  | nil => rfl
  | cons i rest ih => rw [List.foldl_cons, ih, lapseGrant_retire]

/-- At a tick the timers that come to 0 are those that time out (R112, R113). -/
theorem tickStages_timed {s : State} (hs : s.EveryOp RetireOp.Timed) : (tickStages s).EveryOp RetireOp.Timed := by
  unfold tickStages
  refine timeoutRetires_timed fun k op slot n runs => ?_
  rw [foldl_lapseGrant_retire] at slot
  have counted : (countdown s).retire[k] = s.retire[k].map RetireOp.countDrain := by simp [countdown]
  have held := slot
  rw [counted] at held
  obtain ⟨before, stood, rfl⟩ := Option.map_eq_some_iff.mp held
  obtain ⟨m, running, rfl⟩ := Option.map_eq_some_iff.mp (show before.drainRemaining.map (· - 1) = some n from runs)
  obtain ⟨low, high⟩ := hs k before stood m running
  refine ⟨?_, by omega⟩
  by_cases zero : m - 1 = 0
  · refine .inl (List.mem_filter.mpr ⟨mem_allBelow k, ?_⟩)
    rw [timedOut_eq, slot, Option.any_some, runs, zero]
    rfl
  · exact .inr (by omega)

theorem postOwed_retire (n : Nat) (s : State) : (postOwed n s).retire = s.retire := by
  induction n generalizing s with
  | zero => rfl
  | succ n ih =>
    unfold postOwed
    split
    · rfl
    · split
      · rfl
      · split
        · rfl
        · exact ih _

/-! ## The opening of an operation -/

/-- A slot with a parent is not FREE (R1). -/
theorem FreeListSound.child_not_free {s : State} (h : FreeListSound s) {i p : SlotIx} (hp : (s.grant i).parent = some p) :
    (s.grant i).state ≠ .free := fun free => by
  rw [h.values i free] at hp
  cases hp

/-- The member set that a condition on the line of ancestors chooses, once its slots drain (R101, R103, R104). -/
theorem MembersByLine.sound {u : State} {members : List SlotIx} (h : MembersByLine u members) (grants : GrantsSound u)
    {op : RetireOp} (same : op.members = members) : MembersSound (drainedBy members u) op where
  nodup := by
    rw [same]
    exact h.among.nodup ((State.nonFree_pairwise grants.freeList.canonical).imp ne_of_lt)
  draining i hi := by
    rw [same] at hi
    have used := State.mem_nonFree.mp (h.among.subset hi)
    rw [drainedBy_grant]
    cases state : (u.grant i).state with
    | free => exact absurd state used
    | draining => simp [GrantState.inUse, state]
    | live => simp [GrantState.inUse, hi]
    | suspended => simp [GrantState.inUse, hi]
  closed i hi j hj := by
    rw [same] at hi ⊢
    have parent : (u.grant j).parent = some i := by
      rw [drainedBy_grant] at hj
      split at hj <;> exact hj
    obtain ⟨P, line⟩ := h.line
    obtain ⟨x, mem, hx⟩ := ((line i).mp hi).2
    refine (line j).mpr ⟨grants.freeList.child_not_free parent, x, ?_, hx⟩
    rw [grants.tree.ancestors_child parent]
    exact List.mem_cons_of_mem _ mem

theorem drainedBy_drains (members : List SlotIx) (s : State) : DrainingStays s (drainedBy members s) :=
  .of_records (fun i => by rw [drainedBy_grant]; split <;> rfl) fun i hi => by
    rw [drainedBy_grant]
    split
    · rfl
    · exact hi

theorem openedOp_timed {kind : RetireKind} {tag : Byte} {target : Option Handle} {members : List SlotIx} {timeout : Nat}
    (h : timeout ≤ 65535) : (openedOp kind tag target members timeout).Timed := by
  intro n runs
  unfold openedOp openingTimer at runs
  split at runs
  · cases runs
  · next running =>
    cases runs
    exact ⟨Nat.one_le_iff_ne_zero.mpr running, h⟩

/-- The operations once the new one is open and its members drain. -/
theorem OpsSound.open_ {u : State} {members : List SlotIx} {kind : RetireKind} {tag : Byte} {target : Option Handle}
    {k : RetireIx} (hs : OpsSound u) (grants : GrantsSound u) (line : MembersByLine u members) :
    OpsSound (drainedBy members
      (u.setRetire k (some (openedOp kind tag target members u.config.drainTimeout)))) := by
  generalize opened : openedOp kind tag target members u.config.drainTimeout = own
  have drained : (drainedBy members (u.setRetire k (some own))).grant = (drainedBy members u).grant := by
    funext i
    rw [drainedBy_grant, drainedBy_grant]
    rfl
  have slots : (drainedBy members (u.setRetire k (some own))).retire = u.retire.set k (some own) := by
    rw [drainedBy_frame]; rfl
  have either {j : RetireIx} {op : RetireOp} (slot : (drainedBy members (u.setRetire k (some own))).retire[j] = some op) :
      op = own ∨ u.retire[j] = some op := by
    have set : (u.setRetire k (some own)).retire[j] = some op := Fewer.of_retire slots j op slot
    by_cases same : j = k
    · subst same
      simp only [State.setRetire, Fin.getElem_fin, Vector.getElem_set_self] at set
      exact .inl (Option.some.inj set).symm
    · rw [setRetire_get_of_ne same] at set
      exact .inr set
  refine ⟨fun j op slot => ?_, fun j op slot => ?_, by rw [drainedBy_frame]; exact hs.timeout⟩
  · have sound : MembersSound (drainedBy members u) op := by
      rcases either slot with rfl | old
      · exact line.sound grants (by rw [← opened]; rfl)
      · exact (hs.members j op old).drains (drainedBy_drains members u) rfl
    exact ⟨sound.nodup, fun i hi => drained ▸ sound.draining i hi, fun i hi c hc => sound.closed i hi c (drained ▸ hc)⟩
  · rcases either slot with rfl | old
    · rw [← opened]; exact openedOp_timed hs.timeout
    · exact hs.timers j op old

theorem OpsSound.drainMembers {members : List SlotIx} {s : State} (hs : OpsSound (drainedBy members s)) :
    OpsSound (drainMembers members s) := by
  rw [drainMembers_eq]
  split
  · exact hs.freeAll
  · exact hs

theorem drainMembers_purgeAt (members : List SlotIx) (s : State) (k : RetireIx) :
    (drainMembers members s).PurgeAt k ↔ s.PurgeAt k := by
  have drained : (drainedBy members s).PurgeAt k ↔ s.PurgeAt k := State.PurgeAt.of_retire (by rw [drainedBy_frame]) k
  rw [drainMembers_eq]
  split
  · rw [freeAll_purgeAt, drained]
  · exact drained

/-- The end of a take that opens an operation: of the operations at an idle processor the new one alone can be a PURGE, and
the processor waits for it if it is open (R76, R107). -/
theorem OpsSound.afterOpening {d : State} {k : RetireIx} {own : RetireOp} {kind : RetireKind} (hs : OpsSound d)
    (slot : d.retire[k] = some own) (idle : d.processor.state = .idle) (purge : ∀ j, d.PurgeAt j ↔ j = k ∧ kind = .purge) :
    RetireSound (afterOpening kind k (completeTakes k d)) := by
  rw [afterOpening_completeTakes (by rw [idle]; decide) slot]
  generalize taken : retired d (d.doneAmong (takeOrder k)) = ended
  have stays (j : RetireIx) (op : RetireOp) : ended.retire[j] = some op ↔ d.retire[j] = some op ∧ op.members ≠ [] := by
    rw [← taken, retired_retire, Option.filter_eq_some_iff, decide_eq_true_eq]
  have open_ : OpsSound ended := by
    refine hs.fewer (fun j op h => ((stays j op).mp h).1) (.of_grants ?_) ?_ <;> rw [← taken]
    · rfl
    · exact hs.timeout
  have nonempty : ended.EveryOp (·.members ≠ []) := fun j op h => ((stays j op).mp h).2
  have purges (j : RetireIx) (h : ended.PurgeAt j) : j = k ∧ kind = .purge ∧ own.members ≠ [] := by
    obtain ⟨op, held, isPurge⟩ := h
    obtain ⟨before, rest⟩ := (stays j op).mp held
    obtain ⟨rfl, isKind⟩ := (purge j).mp ⟨op, before, isPurge⟩
    rw [slot] at before
    cases before
    exact ⟨rfl, isKind, rest⟩
  split
  · next waits =>
    have wait : PurgeSound { ended with processor := { d.processor with state := .purging } } := by
      refine ⟨fun j j' hj hj' => (purges j hj).1.trans (purges j' hj').1.symm, fun _ _ => .inl rfl, fun _ => ⟨k, own, ?_, ?_⟩⟩
      · exact (stays k own).mpr ⟨slot, waits.2⟩
      · obtain ⟨op, held, isPurge⟩ := (purge k).mpr ⟨rfl, waits.1⟩
        rw [slot] at held
        exact Option.some.inj held ▸ isPurge
    have waiting : OpsSound { ended with processor := { d.processor with state := .purging } } :=
      open_.fewer (.of_retire rfl) (.of_grants rfl) open_.timeout
    exact waiting.retireSound wait nonempty
  · next waits =>
    have none : PurgeSound ended := .of_none (fun j hj => waits (purges j hj).2) (by
      rw [← taken, show (retired d _).processor.state = .idle from idle]; decide)
    exact (open_.retireSound none nonempty).calm (takeTest_calm _)

theorem RetireSound.openOperation {s u : State} {r : CommandRecord} {rest : List CommandRecord} (hs : RetireSound u)
    (grants : GrantsSound u) (taking : Taking s r rest) (revoking : r.revoking = true)
    (h : u.control = (s.takeHead rest).control) (kind : RetireKind) (target : Option Handle) {members : List SlotIx}
    (line : MembersByLine u members) : RetireSound (openOperation kind r target members u) := by
  obtain ⟨-, -, -, processor, retire⟩ := control_eq_iff.mp h
  have idle : u.processor.state = .idle := by rw [processor]; exact taking.tested.1
  obtain ⟨k, found, free⟩ := taking.freeRetire revoking retire
  have alone (j : RetireIx) : ¬ u.PurgeAt j := fun c =>
    State.not_halts idle (by decide) (by decide) (hs.purge.halts j c)
  rw [openOperation_eq found]
  generalize opened : u.setRetire k (some (openedOp kind r.tag target members u.config.drainTimeout)) = w
  have own : w.retire[k] = some (openedOp kind r.tag target members u.config.drainTimeout) := by
    rw [← opened]; simp [State.setRetire]
  obtain ⟨left, slot⟩ := drainMembers_own members own
  refine OpsSound.afterOpening (OpsSound.drainMembers ?_) slot ?_ fun j => ?_
  · rw [← opened]
    exact hs.ops.open_ grants line
  · rw [drainMembers_processor, ← opened]
    exact idle
  · rw [drainMembers_purgeAt]
    by_cases same : j = k
    · subst same
      unfold State.PurgeAt
      rw [own]
      simp [openedOp]
    · have old : w.PurgeAt j ↔ u.PurgeAt j := by
        unfold State.PurgeAt
        rw [← opened, setRetire_get_of_ne same]
      exact iff_of_false (fun c => alone j (old.mp c)) fun c => same c.1

/-! ## Every deed -/

theorem RetireSound.aside {s t : State} (hs : RetireSound s) (h : Aside s t) (free : FreeListSound s) : RetireSound t := by
  obtain ⟨-, -, -, processor, retire⟩ := control_eq_iff.mp h.control
  exact (hs.ops.fewer (.of_retire retire) (h.drains free) (h.timeout hs.timeout)).retireSound
    (hs.purge.congr (State.PurgeAt.of_retire retire) (fun c => by unfold State.Halts; rw [processor]; exact c)
      fun c => processor ▸ c) (State.EveryOp.fewer hs.nonempty (.of_retire retire))

theorem RetireSound.settle {s : State} (hs : RetireSound s) : RetireSound (settle s) := hs.ops.settle hs.purge

/-- Timeouts, lapses and owed notices, and the settling after them. -/
theorem RetireSound.settle_stirs {s u : State} (hs : RetireSound s) (h : Stirs s u) (timers : u.EveryOp RetireOp.Timed) :
    RetireSound (Machine.settle u) := (hs.ops.stirs h timers).settle (hs.purge.stirs h)

theorem RetireSound.timed_of_retire {s u : State} (hs : RetireSound s) (h : u.retire = s.retire) : u.EveryOp RetireOp.Timed :=
  hs.ops.timers.fewer (.of_retire h)

/-- A take that ends at an idle processor leaves the retire set alone. -/
theorem endTake_calm {u : State} {r : CommandRecord} {v : Verdict} (idle : u.processor.state = .idle) :
    Calm u (endTake r v u) := by
  have source := State.not_halts idle (by decide) (by decide)
  cases v with
  | stays => exact stopProcessor_calm u
  | completes st handle res =>
    refine Calm.trans ?_ (stopProcessor_calm _)
    split
    · exact .of_moves rfl rfl rfl source fun c => nomatch c
    · exact idle_takeTest_calm rfl rfl rfl source idle

theorem RetireSound.takeTest {s : State} (hs : RetireSound s) : RetireSound (takeTest s) := hs.calm (takeTest_calm s)

theorem RetireSound.stopProcessor {s : State} (hs : RetireSound s) : RetireSound (stopProcessor s) :=
  hs.calm (stopProcessor_calm s)

theorem RetireSound.popResponse {s : State} (hs : RetireSound s) : RetireSound (popResponse s) := by
  unfold Machine.popResponse
  split
  · exact hs
  · next tail queued =>
    have popped := popped_stirs queued
    dsimp only
    split
    · exact (hs.settle_stirs (popped.trans (postOwed_stirs 32 _))
        (hs.timed_of_retire (postOwed_retire 32 _))).takeTest
    · exact (hs.calm (.of_processor (t := { s with responseQueue := tail }) rfl rfl rfl rfl)).takeTest

theorem RetireSound.takeHead {s : State} (hs : RetireSound s) (rest : List CommandRecord) : RetireSound (s.takeHead rest) :=
  hs.calm (.of_processor rfl rfl rfl rfl)

theorem RetireSound.deed {s t : State} (h : Deed s t) (grants : GrantsSound s) (hs : RetireSound s) : RetireSound t := by
  have free := grants.freeList
  cases h with
  | aside h _ _ => exact hs.aside h free
  | stops h _ => exact (hs.aside h free).stopProcessor
  | settles h _ _ => exact (hs.aside h free).settle
  | resets fresh _ timeout =>
    obtain ⟨-, -, -, processor, retire⟩ := control_eq_iff.mp fresh
    have empty (k : RetireIx) (op : RetireOp) : t.retire[k] ≠ some op := fun c => by
      have := Fewer.of_retire retire k op c
      rw [reset_retire] at this
      cases this
    exact OpsSound.retireSound ⟨fun k op c => absurd c (empty k op), fun k op c => absurd c (empty k op), timeout hs.timeout⟩
      (.of_none (fun k ⟨op, c, _⟩ => empty k op c) (by rw [processor]; decide)) fun k op c => absurd c (empty k op)
  | push => exact hs.calm (pushCommand_calm s)
  | pop => exact hs.popResponse
  | resume => exact hs.calm (resumeAction_calm s)
  | discard => exact hs.calm (discardAction_calm s)
  | discardRemoval => exact hs.calm (discardRemoval_calm s)
  | retireCompletion k =>
    unfold retireCompletion
    split
    · exact hs
    · next op slot =>
      rw [if_neg (by simpa using hs.nonempty k op slot)]
      exact hs
  | barrierCompletion => exact hs.calm (completeBarrier_calm s)
  | owedNoticePosted =>
    unfold owedNoticePosted
    split
    · exact hs
    · exact (hs.settle_stirs (postOwed_stirs 1 s) (hs.timed_of_retire (postOwed_retire 1 s))).takeTest
  | drainTimeout k =>
    unfold drainTimeout
    split
    · refine (hs.settle_stirs (timeoutRetires_stirs [k] s) (timeoutRetires_timed fun j op slot n runs => ?_)).stopProcessor
      obtain ⟨low, high⟩ := hs.timer j op slot n runs
      exact ⟨.inr low, high⟩
    · exact hs
  | lapse i =>
    unfold lapse
    split
    · exact (hs.settle_stirs (lapseGrant_stirs s i) (hs.timed_of_retire (lapseGrant_retire s i))).takeTest.stopProcessor
    · exact hs
  | leaseTick =>
    have settled := hs.settle_stirs (tickStages_stirs s) (tickStages_timed hs.ops.timers)
    unfold leaseTick
    generalize Machine.settle (tickStages s) = u at settled ⊢
    exact (settled.calm (.of_processor (t := { u with clock := u.clock.tick }) rfl rfl rfl rfl)).takeTest.stopProcessor
  | completes taking h =>
    obtain ⟨-, -, -, processor, -⟩ := control_eq_iff.mp h.aside.control
    exact ((hs.takeHead _).aside h.aside (free.of_blocks rfl rfl)).calm (endTake_calm (by rw [processor]; exact taking.tested.1))
  | waits taking =>
    exact (hs.calm (.of_moves (t := { s.takeHead _ with
      processor := { s.processor with state := .barrierWait, barrierTag := some _ } }) rfl rfl rfl
      (State.not_halts taking.tested.1 (by decide) (by decide)) fun c => nomatch c)).stopProcessor
  | opens taking revoking h reaches line =>
    exact (((hs.takeHead _).aside h (free.of_blocks rfl rfl)).openOperation (grants.leads reaches) taking revoking h.control _ _
      line).stopProcessor

/-- Settles O57: the table stays sound by O56, and each deed keeps the retire set. -/
theorem retireSetStaysSound : Obligations.RetireSetStaysSound := by
  intro c s t hs he
  refine ⟨delegationTreeStaysSound c s t hs.grants he, ?_⟩
  obtain ⟨u, inner, blocks, deed⟩ := exec_does he
  exact RetireSound.deed deed (hs.grants.leads (.other blocks)) (hs.retire.aside (.of_inner inner) hs.grants.freeList)

end Sys2Proof.Machine
end

section
/-! Completions of operations and of a BARRIER, the take test, takes that are not due, BARRIER, the host's writes to the
queues, and discards (R58–R77). -/

namespace Sys2Proof.Machine

/-! ## Completions (R75, R109–R111) -/

/-- The state once a BARRIER's completion is posted into its reservation (R75). -/
def barrierPosted (tag : Byte) (s : State) : State := { s with
  responseQueue := s.responseQueue ++ [.completion { tag := tag, status := .ok, kind := 0x08, handle := none, result := .absent }]
  reserved := s.reserved - 1 }

theorem completeBarrier_barrierWait {s : State} {tag : Byte} (waits : s.processor.barrierTag = some tag)
    (closed : ∀ k : RetireIx, s.retire[k] = none) (state : s.processor.state = .barrierWait) :
    completeBarrier s = takeTest { barrierPosted tag s with
      processor := { s.processor with state := .idle, barrierTag := none } } := by
  unfold completeBarrier
  simp only [waits, State.openCount_eq_zero.mpr closed, state]
  rfl

theorem completeBarrier_stopped {s : State} {tag : Byte} (waits : s.processor.barrierTag = some tag)
    (closed : ∀ k : RetireIx, s.retire[k] = none) (state : s.processor.state = .stopped) :
    completeBarrier s = { barrierPosted tag s with processor := { s.processor with barrierTag := none } } := by
  unfold completeBarrier
  simp only [waits, State.openCount_eq_zero.mpr closed, state]
  rfl

theorem retireCompletion_eq {s : State} {k : RetireIx} {op : RetireOp} (slot : s.retire[k] = some op) (empty : op.members = []) :
    retireCompletion k s = completeBarrier (takeTest (retiredAmong [k] s)) := by
  have done : s.doneIn k = some op := State.doneIn_eq_some.mpr ⟨slot, empty⟩
  have one := completeIfEmpty_eq s k
  rw [if_neg (by simp [State.doneAmong, done])] at one
  rw [← one]
  unfold retireCompletion completeIfEmpty
  rw [slot]
  simp only [empty, List.isEmpty_nil, if_true]

theorem takeTest_barrierTag (s : State) : (takeTest s).processor.barrierTag = s.processor.barrierTag := by
  rw [takeTest_frame]

/-- All operations that are done, completed together, in the terms of R110. -/
theorem retiredAmong_everySlot (s : State) : retiredAmong (allBelow 8) s = { retired s s.emptied with
    processor := if (∃ op ∈ s.emptied, op.kind = .purge) ∧ s.processor.state = .purging
      then { s.processor with state := .idle } else s.processor } := by
  have slots : (Vector.ofFn fun k : RetireIx => if k ∈ allBelow 8 then s.retire[k].filter fun op => decide (op.members ≠ [])
      else s.retire[k]) = s.retire.map fun slot => slot.filter fun op => decide (op.members ≠ []) := by
    ext1 j hj
    rw [Vector.getElem_ofFn, if_pos (mem_allBelow _), Vector.getElem_map]
    rfl
  unfold retiredAmong
  rw [slots, ← State.emptied_eq]
  rfl

theorem retired_barrierTag (l : List RetireIx) (s : State) : (retiredAmong l s).processor.barrierTag = s.processor.barrierTag := by
  unfold retiredAmong
  dsimp only
  split <;> rfl

theorem completeRetires_barrierTag (s : State) : (completeRetires s).processor.barrierTag = s.processor.barrierTag := by
  rw [completeRetires_eq]
  split
  · rfl
  · rw [takeTest_barrierTag, retired_barrierTag]

/-- The completions of a happening, in the terms of R110. -/
theorem completeRetires_emptied (s : State) : completeRetires s = if s.emptied = [] then s
    else takeTest { retired s s.emptied with
      processor := if (∃ op ∈ s.emptied, op.kind = .purge) ∧ s.processor.state = .purging
        then { s.processor with state := .idle } else s.processor } := by
  rw [completeRetires_eq, retiredAmong_everySlot, ← State.emptied_eq]

/-- Settles O16: settling is the freeing, the completions all together, and the BARRIER's. -/
theorem operationsAndBarriersComplete : Obligations.OperationsAndBarriersComplete := by
  refine ⟨fun s k op running slot empty untagged => ?_, fun s b running none waits => ⟨fun state => ?_, fun state => ?_⟩, ?_⟩
  · have done : s.quiet.doneIn k = some op := State.doneIn_eq_some.mpr ⟨slot, empty⟩
    have tag : (takeTest (retiredAmong [k] s.quiet)).processor.barrierTag = none := by
      rw [takeTest_barrierTag, retired_barrierTag]; exact untagged
    show happening (retireCompletion k) s = _
    rw [happening_of_running running, retireCompletion_eq (s := s.quiet) slot empty, completeBarrier_of_none tag,
      retiredAmong_single done, ← RetireOp.completion_eq]
    by_cases purge : op.kind = .purge
    · simp only [purge, if_true]; rfl
    · simp only [purge, if_false]; rfl
  · exact (happening_of_running running).trans (congrArg _ (completeBarrier_barrierWait (s := s.quiet) waits none state))
  · exact (happening_of_running running).trans (congrArg _ (completeBarrier_stopped (s := s.quiet) waits none state))
  · intro s u completed
    have settled : settle s = completeBarrier completed := congrArg completeBarrier (completeRetires_emptied u)
    have tag : completed.processor.barrierTag = u.processor.barrierTag := by
      rw [show completed = completeRetires u from (completeRetires_emptied u).symm]
      exact completeRetires_barrierTag u
    rw [settled]
    refine ⟨?_, fun b waits none => ⟨completeBarrier_barrierWait (tag.trans waits) none,
      completeBarrier_stopped (tag.trans waits) none⟩⟩
    rintro (untagged | ⟨k, open_⟩)
    · exact completeBarrier_of_none (tag.trans untagged)
    · exact completeBarrier_of_open fun c => open_ (State.openCount_eq_zero.mp c k)

/-! ## Kind codes (R181) -/

theorem kindOfCode_of_unnamed {c : Byte} (h : 15 ≤ c.toNat) : kindOfCode c = none := by
  unfold kindOfCode
  split
  case h_15 => rfl
  all_goals omega

theorem kindOfCode_eq (c : Byte) : kindOfCode c = if c.toNat = 0 then none else
    [CommandKind.create, .derive, .modify, .query, .revoke, .revokeAgent, .purge, .barrier, .agentSet, .quarantine, .release,
      .excludeSet, .freeze, .configure][c.toNat - 1]? := by
  by_cases named : c.toNat < 15
  · unfold kindOfCode
    generalize c.toNat = n at named ⊢
    interval_cases n <;> rfl
  · rw [kindOfCode_of_unnamed (not_lt.mp named), if_neg (by omega), List.getElem?_eq_none]
    simp only [List.length_cons, List.length_nil]
    omega

theorem CommandRecord.kindCode_toNat (r : CommandRecord) : r.kindCode.toNat = r.c0.toNat % 256 := by
  simp [CommandRecord.kindCode, BitVec.extractLsb'_toNat]

theorem CommandRecord.revoking_iff (r : CommandRecord) : r.revoking = true ↔
    r.c0.toNat % 256 = 0x05 ∨ r.c0.toNat % 256 = 0x06 ∨ r.c0.toNat % 256 = 0x07 := by
  rw [← r.kindCode_toNat]
  unfold CommandRecord.revoking CommandRecord.kind
  by_cases named : r.kindCode.toNat < 15
  · unfold kindOfCode
    generalize r.kindCode.toNat = n at named ⊢
    interval_cases n <;> simp
  · rw [kindOfCode_of_unnamed (not_lt.mp named)]
    exact iff_of_false (fun c => nomatch c) (by omega)

/-! ## The take test (R67) -/

/-- The test waits for a place where a notice is owed or every place is taken (R67). -/
theorem takeTestState_waitingSpace {s : State} {r : CommandRecord} {rest : List CommandRecord} (queued : s.commandQueue = r :: rest)
    (full : (∃ i, (s.grant i).noticeOwed ≠ none) ∨ 32 ≤ s.responseQueue.length + s.reserved) :
    takeTestState s = .waitingSpace := by
  unfold takeTestState
  rw [queued]
  exact if_pos (full.imp State.owesNotice_iff.mpr State.unreserved_eq_zero.mpr)

theorem takeTestState_of_place {s : State} {r : CommandRecord} {rest : List CommandRecord} (queued : s.commandQueue = r :: rest)
    (place : ¬ ((∃ i, (s.grant i).noticeOwed ≠ none) ∨ 32 ≤ s.responseQueue.length + s.reserved)) :
    takeTestState s = if r.revoking = true ∧ s.openCount = 8 then .waitingRetire else .idle := by
  unfold takeTestState
  rw [queued]
  exact if_neg (mt (Or.imp State.owesNotice_iff.mp State.unreserved_eq_zero.mp) place)

/-- Settles O26: the test's branches are the table's rows. -/
theorem takeTestFollowsItsTable : Obligations.TakeTestFollowsItsTable := by
  refine fun s => ⟨fun waits => ⟨takeTestState s, takeTest_tested ?_, fun empty => ?_, fun r rest queued => ?_⟩, fun other => ?_⟩
  · simp only [List.mem_cons, List.not_mem_nil, or_false] at waits
    rcases waits with h | h | h <;> rw [h] <;> rfl
  · unfold takeTestState
    rw [empty]
  · intro full revoking
    have test : revoking ∧ (∀ k : RetireIx, s.retire[k] ≠ none) ↔ r.revoking = true ∧ s.openCount = 8 :=
      and_congr r.revoking_iff.symm State.openCount_eq_eight.symm
    refine ⟨takeTestState_waitingSpace queued, fun place kind slots => ?_, fun place free => ?_⟩
    · rw [takeTestState_of_place queued place, if_pos (test.mp ⟨kind, slots⟩)]
    · rw [takeTestState_of_place queued place, if_neg (mt test.mpr free)]
  · refine takeTest_untested ?_
    cases state : s.processor.state <;> simp [state] at other <;> rfl

/-! ## Takes that are not due (R66, R67) -/

/-- Each take runs a body of its own. -/
theorem exec_takeOf (k : Option CommandKind) : ∃ body, ∀ s, exec (takeOf k) s = happening (takeCommand k body) s := by
  rcases k with _ | k
  · exact ⟨_, fun _ => rfl⟩
  · cases k <;> exact ⟨_, fun _ => rfl⟩

theorem State.takeDue_iff {s : State} : s.takeDue = true ↔
    s.processor.state = .idle ∧ s.commandQueue ≠ [] ∧ takeTestState s = .idle := by
  simp [State.takeDue, and_assoc]

/-- Settles O27: each condition stops the take test short of IDLE, or the kinds differ. -/
theorem noTakeWhenNoneIsDue : Obligations.NoTakeWhenNoneIsDue := by
  intro s k running none
  obtain ⟨body, runs⟩ := exec_takeOf k
  rw [runs]
  refine take_of_not_due running ?_ body
  rw [← Bool.not_eq_true, State.takeDue_iff]
  have blocked (full : (∃ i, (s.grant i).noticeOwed ≠ Option.none) ∨ 32 ≤ s.responseQueue.length + s.reserved) :
      ¬ (s.processor.state = .idle ∧ s.commandQueue ≠ [] ∧ takeTestState s = .idle) := by
    rintro ⟨-, queued, idle⟩
    obtain ⟨r, rest, queued⟩ := List.exists_cons_of_ne_nil queued
    rw [takeTestState_waitingSpace queued full] at idle
    cases idle
  rcases none with empty | busy | owed | full | ⟨r, rest, queued, other⟩
  · exact .inl fun c => c.2.1 empty
  · exact .inl fun c => busy c.1
  · exact .inl (blocked (.inl (State.owesNotice_iff.mp owed)))
  · exact .inl (blocked (.inr full))
  · rcases other with kind | slots
    · refine .inr fun r' rest' queued' => ?_
      rw [queued] at queued'
      cases queued'
      exact kind
    · refine .inl fun c => ?_
      by_cases full : (∃ i, (s.grant i).noticeOwed ≠ Option.none) ∨ 32 ≤ s.responseQueue.length + s.reserved
      · exact blocked full c
      · have idle := c.2.2
        rw [takeTestState_of_place queued full, if_pos slots] at idle
        cases idle

/-! ## BARRIER (R75) -/

/-- Settles O37: by the count of the open operations. -/
theorem barrierCompletesOrWaits : Obligations.BarrierCompletesOrWaits := by
  intro s r rest ready passes
  have taken : exec .barrier s = .next (endTake r (barrierBody r (s.quiet.takeHead rest)).1
      (barrierBody r (s.quiet.takeHead rest)).2) := take_of_passes ready passes barrierBody
  have count : (s.quiet.takeHead rest).openCount = s.openCount := rfl
  rw [taken]
  unfold barrierBody
  rw [count]
  constructor
  · intro closed
    rw [if_pos (State.openCount_eq_zero.mpr closed)]
    exact congrArg _ (endTake_running .ok none .absent rest ready.running)
  · rintro ⟨k, open_⟩
    rw [if_neg fun c => open_ (State.openCount_eq_zero.mp c k)]
    exact congrArg _ (stopProcessor_running ready.running)

/-! ## The host's queues (R58, R60, R63) -/

theorem pushCommand_of_empty {s : State} (h : s.commandQueue = []) :
    pushCommand s = takeTest { s with commandQueue := [s.staging] } := by
  simp [pushCommand, h]

theorem pushCommand_of_queued {s : State} (h : s.commandQueue ≠ []) (room : s.commandQueue.length < 32) :
    pushCommand s = { s with commandQueue := s.commandQueue ++ [s.staging] } := by
  simp [pushCommand, h, room]

theorem pushCommand_of_full {s : State} (h : 32 ≤ s.commandQueue.length) : pushCommand s = { s with pushRefused := true } :=
  if_pos h

theorem popResponse_of_empty {s : State} (h : s.responseQueue = []) : popResponse s = s := by
  unfold popResponse
  rw [h]

theorem popResponse_of_none_owed {s : State} {head : ResponseRecord} {tail : List ResponseRecord}
    (h : s.responseQueue = head :: tail) (owes : s.owesNotice = false) :
    popResponse s = takeTest { s with responseQueue := tail } := by
  have still : ({ s with responseQueue := tail } : State).owesNotice = false := owes
  unfold popResponse
  split
  · next empty => rw [h] at empty; cases empty
  · next queued =>
    rw [h] at queued
    cases queued
    exact congrArg takeTest (if_neg (by rw [still]; decide))

/-- Settles O21: by the cases of the two actions. -/
theorem pushAndPopMoveTheQueues : Obligations.PushAndPopMoveTheQueues := by
  intro s v running
  have push : exec (.push v) s = .next (pushCommand s.quiet) := happening_of_running running
  have pop : exec (.pop v) s = .next (popResponse s.quiet) := happening_of_running running
  rw [push, pop]
  exact ⟨fun empty => congrArg _ (pushCommand_of_empty (s := s.quiet) empty),
    fun queued room => congrArg _ (pushCommand_of_queued (s := s.quiet) queued room),
    fun full => congrArg _ (pushCommand_of_full (s := s.quiet) full),
    fun empty => congrArg _ (popResponse_of_empty (s := s.quiet) empty),
    fun _ _ queued owes => congrArg _ (popResponse_of_none_owed (s := s.quiet) queued owes)⟩

/-! ## CONTROL (R71, R72, R178) -/

theorem resumeAction_of_halted {s : State} (h : s.processor.state = .halted) :
    resumeAction s = takeTest { s with processor := { s.processor with state := .idle } } := if_pos h

theorem resumeAction_of_other {s : State} (h : s.processor.state ≠ .halted) : resumeAction s = s := if_neg h

theorem discardAction_of_empty {s : State} (h : s.processor.state = .halted) (empty : s.commandQueue = []) :
    discardAction s = takeTest { s with processor := { s.processor with state := .idle } } := by
  unfold discardAction
  rw [if_pos h, if_pos (List.isEmpty_iff.mpr empty)]
  rfl

theorem discardAction_of_queued {s : State} (h : s.processor.state = .halted) (queued : s.commandQueue ≠ []) :
    discardAction s = { s with
      processor := { s.processor with state := .discarding, discardCount := s.commandQueue.length } } := by
  unfold discardAction
  rw [if_pos h, if_neg (mt List.isEmpty_iff.mp queued)]

theorem discardAction_of_other {s : State} (h : s.processor.state ≠ .halted) : discardAction s = s := if_neg h

/-- A CONTROL write is one of the actions, after the PUSH_REFUSED clear (R178). -/
theorem writeControl_eq (v : Word) (s : State) :
    let cleared : State := if v.getLsbD 3 then clearPushRefused s else s
    writeControl v s = if v.getLsbD 2 then softReset s else if v.getLsbD 1 then discardAction cleared
      else if v.getLsbD 0 then resumeAction cleared else cleared := rfl

/-- Settles O22: by the cases of the two actions, and of a CONTROL write. -/
theorem controlActions : Obligations.ControlActions := by
  intro s running
  have resume (t : State) (h : t.inReset = false) : exec .resume t = .next (resumeAction t.quiet) := happening_of_running h
  have discard (t : State) (h : t.inReset = false) : exec .discard t = .next (discardAction t.quiet) := happening_of_running h
  rw [resume s running, discard s running]
  refine ⟨fun halted => ⟨congrArg _ (resumeAction_of_halted (s := s.quiet) halted),
      fun empty => congrArg _ (discardAction_of_empty (s := s.quiet) halted empty),
      fun queued => congrArg _ (discardAction_of_queued (s := s.quiet) halted queued)⟩,
    fun other => ⟨congrArg _ (resumeAction_of_other (s := s.quiet) other),
      congrArg _ (discardAction_of_other (s := s.quiet) other)⟩,
    happening_of_running running, ?_⟩
  intro v cleared
  have written : exec (.registerWrite 2 v) s = .next (writeControl v s.quiet) := happening_of_running running
  have reset : exec .softReset s = .next (softReset s.quiet) := happening_of_running running
  have still : cleared.inReset = false := by
    show (if _ then _ else s).inReset = false
    split <;> exact running
  have quiet : (if v.getLsbD 3 then clearPushRefused s.quiet else s.quiet) = cleared.quiet := by
    show _ = State.quiet (if _ then _ else s)
    split <;> rfl
  rw [written, resume cleared still, discard cleared still, reset, writeControl_eq, quiet]
  rw [apply_ite Host.Outcome.next, apply_ite Host.Outcome.next, apply_ite Host.Outcome.next]

/-! ## Discards (R73) -/

/-- Settles O23: the removal's condition is that of R73. -/
theorem discardRemovalPostsDiscarded : Obligations.DiscardRemovalPostsDiscarded := by
  intro s r rest running queued removed due
  have step : exec .discardRemoval s = .next (discardRemoval s.quiet) := happening_of_running running
  have test : (s.quiet.processor.state = .discarding ∧ s.quiet.owesNotice = false ∧ s.quiet.unreserved ≠ 0) ↔ due := by
    rw [ne_eq, State.unreserved_eq_zero, not_le]
    rfl
  have held : s.quiet.commandQueue = r :: rest := queued
  rw [step]
  unfold discardRemoval
  rw [held]
  dsimp only
  rw [if_congr test rfl rfl]
  refine ⟨fun isDue more => ?_, fun isDue last => ?_, fun notDue => ?_⟩
  · rw [if_pos isDue, if_neg (by show ¬ s.processor.discardCount ≤ 1; omega)]
    rfl
  · rw [if_pos isDue, if_pos (by show s.processor.discardCount ≤ 1; omega)]
    simp only [State.quiet_processor, last]
    rfl
  · rw [if_neg notDue]

end Sys2Proof.Machine
end

section
/-! The general checks of a taken record (R69, R70, R181). -/

namespace Sys2Proof.Machine

/-! ## Bits of a record -/

/-- The bits of a word from a position on, in a width. -/
def slice (position width : Nat) : Word := (BitVec.allOnes width).setWidth 32 <<< position

theorem and_slice_eq_zero {x : Word} {p n : Nat} (h : p + n ≤ 32) : x &&& slice p n = 0 ↔ x.extractLsb' p n = 0 := by
  have bits : x &&& slice p n = 0 ↔ ∀ i, p ≤ i → i < p + n → x.getLsbD i = false := by
    constructor
    · intro zero i low high
      have bit : (x &&& slice p n).getLsbD i = (0 : Word).getLsbD i := by rw [zero]
      simpa [slice, show i < 32 by omega, show ¬ i < p by omega, show i - p < n by omega, show i - p < 32 by omega] using bit
    · intro zero
      refine BitVec.eq_of_getLsbD_eq fun i hi => ?_
      by_cases inside : p ≤ i ∧ i < p + n
      · simp [zero i inside.1 inside.2]
      · have outside : i < p ∨ ¬ i - p < n := by omega
        rcases outside with c | c <;> simp [slice, c]
  rw [bits]
  constructor
  · intro zero
    refine BitVec.eq_of_getLsbD_eq fun i hi => ?_
    simp [zero (p + i) (Nat.le_add_right _ _) (by omega)]
  · intro zero i low high
    have bit : (x.extractLsb' p n).getLsbD (i - p) = (0 : BitVec n).getLsbD (i - p) := by rw [zero]
    simpa [show i - p < n by omega, show p + (i - p) = i by omega] using bit

/-- A record holds a 1 in a bit of a mask. -/
def CommandRecord.meets (r mask : CommandRecord) : Bool :=
  r.c0 &&& mask.c0 != 0 || r.c1 &&& mask.c1 != 0 || r.c2 &&& mask.c2 != 0 || r.c3 &&& mask.c3 != 0
    || r.c4 &&& mask.c4 != 0 || r.c5 &&& mask.c5 != 0

/-- The bits of either of two masks. -/
def CommandRecord.join (a b : CommandRecord) : CommandRecord :=
  ⟨a.c0 ||| b.c0, a.c1 ||| b.c1, a.c2 ||| b.c2, a.c3 ||| b.c3, a.c4 ||| b.c4, a.c5 ||| b.c5⟩

/-- The bits that a mask leaves out. -/
def CommandRecord.complement (m : CommandRecord) : CommandRecord := ⟨~~~m.c0, ~~~m.c1, ~~~m.c2, ~~~m.c3, ~~~m.c4, ~~~m.c5⟩

theorem CommandRecord.outside_eq (r mask : CommandRecord) : r.outside mask = r.meets mask.complement := rfl

theorem and_or_ne_zero (x a b : Word) : (x &&& (a ||| b) != 0) = (x &&& a != 0 || x &&& b != 0) := by
  rw [BitVec.and_or_distrib_left, Bool.eq_iff_iff]
  simp [BitVec.or_eq_zero_iff, -not_and, not_and_or]

theorem CommandRecord.meets_join (r a b : CommandRecord) : r.meets (a.join b) = (r.meets a || r.meets b) := by
  simp only [CommandRecord.meets, CommandRecord.join, and_or_ne_zero]
  ac_rfl

/-! ## Fields and masks (R69) -/

/-- The bits of a field. -/
def Field.bits : Field → CommandRecord
  | .agent => ⟨slice 16 4, 0, 0, 0, 0, 0⟩
  | .rights => ⟨slice 20 3, 0, 0, 0, 0, 0⟩
  | .flags => ⟨slice 24 8, 0, 0, 0, 0, 0⟩
  | .handle => ⟨0, slice 0 16, 0, 0, 0, 0⟩
  | .label => ⟨0, slice 16 16, 0, 0, 0, 0⟩
  | .base => ⟨0, 0, BitVec.allOnes 32, 0, 0, 0⟩
  | .length => ⟨0, 0, 0, BitVec.allOnes 32, 0, 0⟩
  | .lease => ⟨0, 0, 0, 0, BitVec.allOnes 32, 0⟩
  | .specific => ⟨0, 0, 0, 0, 0, BitVec.allOnes 32⟩

/-- The reserved position of a record. -/
def reservedPosition : CommandRecord := ⟨slice 23 1, 0, 0, 0, 0, 0⟩

theorem and_slice_ne_zero (x : Word) {p n : Nat} (h : p + n ≤ 32) : (x &&& slice p n != 0#32) = !(x.extractLsb' p n == 0#n) := by
  rw [bne, Bool.eq_iff_iff]
  simp only [Bool.not_eq_true', beq_eq_false_iff_ne, ne_eq]
  exact not_congr (and_slice_eq_zero h)

theorem and_allOnes_ne_zero (x : Word) : (x &&& BitVec.allOnes 32 != 0#32) = !(x == 0#32) := by
  rw [BitVec.and_allOnes]; rfl

theorem CommandRecord.meets_bits (r : CommandRecord) (f : Field) : r.meets f.bits = !r.fieldZero f := by
  have none (x : Word) : (x &&& 0 != 0) = false := by simp
  cases f <;> simp only [CommandRecord.meets, Field.bits, none, Bool.or_false, Bool.false_or]
  case agent | rights | flags | handle | label => exact and_slice_ne_zero _ (by decide)
  case base | length | lease | specific => exact and_allOnes_ne_zero _

theorem CommandRecord.meets_reservedPosition (r : CommandRecord) : r.meets reservedPosition = r.reservedBit := by
  have bit : r.c0.extractLsb' 23 1 = BitVec.ofBool (r.c0.getLsbD 23) := by
    refine BitVec.eq_of_getLsbD_eq fun i hi => ?_
    obtain rfl : i = 0 := by omega
    simp
  have only : r.meets reservedPosition = !(r.c0.extractLsb' 23 1 == 0#1) := by
    simp [CommandRecord.meets, reservedPosition, and_slice_ne_zero]
  rw [only, bit]
  unfold CommandRecord.reservedBit
  cases r.c0.getLsbD 23 <;> rfl

/-- The fields that a kind does not use. -/
def fieldsUnused (k : CommandKind) : List Field := Field.all.filter fun f => !(fieldsUsed k).contains f

/-- The bits that a kind does not use are those of the fields it does not use and the reserved position. -/
theorem usedBits_complement (k : CommandKind) :
    (usedBits k).complement = (fieldsUnused k).foldr (fun f m => f.bits.join m) reservedPosition := by
  cases k <;> decide

theorem CommandRecord.meets_foldr (r : CommandRecord) (l : List Field) (m : CommandRecord) :
    r.meets (l.foldr (fun f m => f.bits.join m) m) = (r.meets m || l.any fun f => !r.fieldZero f) := by
  induction l with
  | nil => simp
  | cons f rest ih => rw [List.foldr_cons, CommandRecord.meets_join, ih, CommandRecord.meets_bits, List.any_cons, Bool.or_left_comm]

theorem CommandRecord.generallyMalformed_eq {r : CommandRecord} {k : CommandKind} (h : r.kind = some k) :
    r.generallyMalformed = r.outside (usedBits k) := by
  unfold CommandRecord.generallyMalformed
  rw [h, CommandRecord.outside_eq, usedBits_complement, CommandRecord.meets_foldr, CommandRecord.meets_reservedPosition]
  simp only [fieldsUnused, List.any_filter]

/-- Settles O28: the bits that a kind does not use are those of the fields it does not use. -/
theorem generalChecksCompleteMalformed : Obligations.GeneralChecksCompleteMalformed := by
  refine ⟨fun r => ?_, fun r k => CommandRecord.generallyMalformed_eq, fun s r rest ready fails => ?_⟩
  · intro code
    show kindOfCode r.kindCode = _
    rw [kindOfCode_eq, r.kindCode_toNat]
  · have malformed : r.generallyMalformed = true := by
      cases kind : r.kind with
      | none => unfold CommandRecord.generallyMalformed; rw [kind]
      | some k => rw [CommandRecord.generallyMalformed_eq kind]; rw [kind] at fails; exact fails
    obtain ⟨body, runs⟩ := exec_takeOf r.kind
    rw [runs, take_of_malformed ready malformed]
    exact congrArg _ (endTake_running .malformed none .absent rest ready.running)

end Sys2Proof.Machine
end

section
/-! The readable registers (R61, R177–R182). -/

namespace Sys2Proof.Machine

/-! ## Words of placed values -/

theorem packWord_toNat (ps : List Placed) : (packWord ps).toNat = packNat ps % 2 ^ 32 := BitVec.toNat_ofNat _ _

theorem packWord_getLsbD (ps : List Placed) {i : Nat} (h : i < 32) : (packWord ps).getLsbD i = (packNat ps).testBit i := by
  rw [packWord, BitVec.getLsbD_ofNat, decide_eq_true h, Bool.true_and]

/-- One-bit values in ascending positions hold their places. -/
theorem packNat_testBit {ps : List Placed} (ascending : (ps.map Placed.position).Pairwise (· < ·))
    (width : ∀ p ∈ ps, p.width = 1) :
    (∀ p ∈ ps, (packNat ps).testBit p.position = p.value.testBit 0) ∧
    ∀ m, (∀ p ∈ ps, m ≤ p.position) → 2 ^ m ∣ packNat ps := by
  induction ps with
  | nil => exact ⟨fun p mem => absurd mem (by simp), fun m _ => dvd_zero _⟩
  | cons p rest ih =>
    rw [List.map_cons, List.pairwise_cons] at ascending
    obtain ⟨below, ascending⟩ := ascending
    obtain ⟨bits, divides⟩ := ih ascending fun q mem => width q (by simp [mem])
    obtain ⟨k, later⟩ := divides (p.position + 1) fun q mem => below _ (List.mem_map_of_mem mem)
    have one : p.width = 1 := width p (by simp)
    have packed : packNat (p :: rest) = 2 ^ (p.position + 1) * k + p.value % 2 * 2 ^ p.position := by
      rw [packNat, one, later, pow_one]; omega
    have small : p.value % 2 * 2 ^ p.position < 2 ^ (p.position + 1) := by
      rw [pow_succ, Nat.mul_comm]
      exact Nat.mul_lt_mul_of_pos_left (Nat.mod_lt _ (by decide)) (by positivity)
    refine ⟨fun q mem => ?_, fun m low => ?_⟩
    · rw [packed, Nat.testBit_two_pow_mul_add _ small]
      rcases List.mem_cons.mp mem with rfl | mem
      · rw [if_pos (Nat.lt_succ_self _), Nat.testBit_mul_two_pow]
        simp [Nat.testBit_zero]
      · have above := below _ (List.mem_map_of_mem mem)
        rw [if_neg (by omega), ← bits q mem, later, Nat.testBit_two_pow_mul]
        simp [show p.position + 1 ≤ q.position by omega]
    · rw [packed]
      exact dvd_add (dvd_mul_of_dvd_left (pow_dvd_pow 2 (by have := low p (by simp); omega)) _)
        (dvd_mul_of_dvd_right (pow_dvd_pow 2 (low p (by simp))) _)

/-! ## Codes and their widths -/

theorem runCode_lt (r : RunState) : runCode r < 2 := by cases r <;> decide
theorem procCode_lt (p : ProcState) : procCode p < 8 := by cases p <;> decide
theorem agentCode_lt (a : AgentState) : agentCode a < 4 := by cases a <;> decide
theorem grantCode_lt (g : GrantState) : grantCode g < 4 := by cases g <;> decide
theorem errorCode_lt (c : ErrorClass) : errorCode c < 4 := by cases c <;> decide
theorem accessCode_lt (k : AccessKind) : accessCode k < 4 := by cases k <;> decide
theorem faultCode_lt (k : FaultKind) : faultCode k < 16 := by cases k <;> decide
theorem statusCode_lt (s : Status) : statusCode s < 256 := by cases s <;> decide

theorem handleField_lt (h : Option Handle) : handleField h < 65536 := by
  cases h with
  | none => decide
  | some h => exact h.isLt

/-! ## The registers -/

theorem devStatus_toNat (s : State) : (devStatus s).toNat = runCode s.runState + 2 * procCode s.processor.state
    + 16 * s.freezeLevel.val + 64 * s.pushRefused.toNat + 256 * s.clock.current.val
    + 1024 * s.clock.pending.isSome.toNat + 2048 * (s.clock.pending.getD 0).val := by
  have run := runCode_lt s.runState
  have proc := procCode_lt s.processor.state
  have level := s.freezeLevel.isLt
  have refused := Bool.toNat_lt s.pushRefused
  have current := s.clock.current.isLt
  have changes := Bool.toNat_lt s.clock.pending.isSome
  have pending := (s.clock.pending.getD 0).isLt
  rw [devStatus, packWord_toNat]
  simp only [packNat]
  omega

theorem State.level_le (s : State) (st : EntryState) : s.level st ≤ 64 := by
  have all : s.tracker.toList.length = 64 := by simp
  exact all ▸ List.countP_le_length

theorem QueuesSound.reserved_le {s : State} (h : QueuesSound s) : s.reserved ≤ 9 := by
  have count := h.reserved
  have open_ := s.openCount_le
  split at count <;> omega

theorem queueLevels_toNat {s : State} (h : QueuesSound s) : (queueLevels s).toNat = s.commandQueue.length
    + 2 ^ 6 * s.responseQueue.length + 2 ^ 12 * s.reserved + 2 ^ 16 * s.level .issued + 2 ^ 23 * s.level .abandoned := by
  have commands := h.commands
  have places := h.places
  have reserved := h.reserved_le
  have issued := s.level_le .issued
  have abandoned := s.level_le .abandoned
  rw [queueLevels, packWord_toNat]
  simp only [packNat]
  rw [Nat.mod_eq_of_lt (show s.commandQueue.length < 2 ^ 6 by omega),
    Nat.mod_eq_of_lt (show s.responseQueue.length < 2 ^ 6 by omega), Nat.mod_eq_of_lt (show s.reserved < 2 ^ 4 by omega),
    Nat.mod_eq_of_lt (show s.level .issued < 2 ^ 7 by omega), Nat.mod_eq_of_lt (show s.level .abandoned < 2 ^ 7 by omega)]
  omega

theorem errorWord_toNat (e : ErrorRecord) : (errorWord e).toNat = e.integrity.toNat + 2 * e.stray.toNat + 4 * e.abandon.toNat
    + 8 * e.further.toNat + (match e.first with
      | none => 0
      | some f => 16 + 32 * errorCode f.errorClass + 2 ^ 16 * (f.detail % 1024)) := by
  have integrity := Bool.toNat_lt e.integrity
  have stray := Bool.toNat_lt e.stray
  have abandon := Bool.toNat_lt e.abandon
  have further := Bool.toNat_lt e.further
  rw [errorWord, packWord_toNat]
  simp only [packNat]
  cases e.first with
  | none =>
    simp only [Option.isSome_none, Option.map_none, Option.getD_none, Bool.toNat_false]
    omega
  | some f =>
    have code := errorCode_lt f.errorClass
    simp only [Option.isSome_some, Option.map_some, Option.getD_some, Bool.toNat_true]
    omega

/-- FAULT_SUMMARY's two halves, a bit for each agent. -/
theorem faultSummary_getLsbD (s : State) (a : AgentIx) :
    (faultSummary s).getLsbD a.val = s.faultSlots[a].isSome ∧
    (faultSummary s).getLsbD (16 + a.val) = decide (s.agents[a].state = .quarantined) := by
  have low := a.isLt
  unfold faultSummary
  rw [packWord_getLsbD _ (by omega), packWord_getLsbD _ (by omega)]
  generalize listed : (allBelow 16).map (fun a => (⟨a.val, 1, s.faultSlots[a].isSome.toNat⟩ : Placed))
    ++ (allBelow 16).map (fun a => (⟨16 + a.val, 1, (decide (s.agents[a].state = .quarantined)).toNat⟩ : Placed)) = ps
  have positions : ps.map Placed.position = (allBelow 16).map (fun a => a.val) ++ (allBelow 16).map (fun a => 16 + a.val) := by
    rw [← listed, List.map_append, List.map_map, List.map_map]; rfl
  have width : ∀ p ∈ ps, p.width = 1 := by
    intro p mem
    rw [← listed, List.mem_append, List.mem_map, List.mem_map] at mem
    rcases mem with ⟨b, -, rfl⟩ | ⟨b, -, rfl⟩ <;> rfl
  have bits := (packNat_testBit (by rw [positions]; decide) width).1
  have bit (b : Bool) : b.toNat.testBit 0 = b := by cases b <;> rfl
  have held : (⟨a.val, 1, s.faultSlots[a].isSome.toNat⟩ : Placed) ∈ ps := by
    rw [← listed]
    exact List.mem_append_left _ (List.mem_map_of_mem (f := fun a : AgentIx => (⟨a.val, 1, _⟩ : Placed)) (mem_allBelow a))
  have blocked : (⟨16 + a.val, 1, (decide (s.agents[a].state = .quarantined)).toNat⟩ : Placed) ∈ ps := by
    rw [← listed]
    exact List.mem_append_right _ (List.mem_map_of_mem (f := fun a : AgentIx => (⟨16 + a.val, 1, _⟩ : Placed)) (mem_allBelow a))
  exact ⟨(bits _ held).trans (bit _), (bits _ blocked).trans (bit _)⟩

theorem faultWord0_toNat (f : HeldFault) : (faultWord0 (some f)).toNat = 1 + 2 * f.more.toNat + 16 * faultCode f.kind
    + 2 ^ 8 * f.tag.toNat + 2 ^ 12 * accessCode f.accessKind + 2 ^ 16 * f.handle.toNat := by
  have more := Bool.toNat_lt f.more
  have kind := faultCode_lt f.kind
  have tag := f.tag.isLt
  have access := accessCode_lt f.accessKind
  have handle := f.handle.isLt
  rw [faultWord0, packWord_toNat]
  simp only [packNat]
  omega

theorem faultWord2_toNat (f : HeldFault) : (faultWord2 (some f)).toNat = f.length % 2 ^ 13 := by
  rw [faultWord2, packWord_toNat]
  simp only [packNat]
  omega

theorem faultWord3_toNat (s : State) :
    (faultWord3 s).toNat = s.faultSelect.val + 16 * agentCode s.agents[s.faultSelect].state := by
  have select := s.faultSelect.isLt
  have code := agentCode_lt s.agents[s.faultSelect].state
  rw [faultWord3, packWord_toNat]
  simp only [packNat]
  omega

theorem faultSelect_toNat (s : State) : (packWord [⟨0, 4, s.faultSelect.val⟩]).toNat = s.faultSelect.val := by
  have select := s.faultSelect.isLt
  rw [packWord_toNat]
  simp only [packNat]
  omega

/-! ## The response words (R61, R182) -/

theorem handleWord_toNat (h : Option Handle) : (packWord [⟨0, 16, handleField h⟩]).toNat = handleField h := by
  have handle := handleField_lt h
  rw [packWord_toNat]
  simp only [packNat]
  omega

theorem completionWord0_toNat (c : Completion) : (responseWord (.completion c) 0).toNat =
    1 + 2 ^ 8 * c.tag.toNat + 2 ^ 16 * statusCode c.status + 2 ^ 24 * c.kind.toNat := by
  have word : responseWord (.completion c) 0 = packWord [⟨0, 4, 1⟩, ⟨8, 8, c.tag.toNat⟩, ⟨16, 8, statusCode c.status⟩,
      ⟨24, 8, c.kind.toNat⟩] := by
    have first : (resultWords c.result)[0]?.getD [] = [] := by cases c.result <;> rfl
    exact congrArg packWord ((congrArg _ first).trans (List.append_nil _))
  have tag := c.tag.isLt
  have status := statusCode_lt c.status
  have kind := c.kind.isLt
  rw [word, packWord_toNat]
  simp only [packNat]
  omega

/-- The words of a completion's result (R180, R182). -/
theorem completionWords_toNat (c : Completion) :
    match c.result with
    | .absent => (responseWord (.completion c) 1).toNat = handleField c.handle ∧ responseWord (.completion c) 2 = 0 ∧
        responseWord (.completion c) 3 = 0 ∧ responseWord (.completion c) 4 = 0 ∧ responseWord (.completion c) 5 = 0
    | .conflicting h => (responseWord (.completion c) 1).toNat = handleField c.handle ∧
        (responseWord (.completion c) 2).toNat = h.toNat ∧
        responseWord (.completion c) 3 = 0 ∧ responseWord (.completion c) 4 = 0 ∧ responseWord (.completion c) 5 = 0
    | .queried q => (responseWord (.completion c) 1).toNat = handleField c.handle + 2 ^ 16 * q.ownerLabel.toNat ∧
        responseWord (.completion c) 2 = q.base ∧
        (responseWord (.completion c) 3).toNat = q.length % 2 ^ 25 + 2 ^ 25 * q.rights.read.toNat
          + 2 ^ 26 * q.rights.write.toNat + 2 ^ 27 * q.rights.delegable.toNat + 2 ^ 28 * grantCode q.state
          + 2 ^ 30 * (q.depth % 4) ∧
        (responseWord (.completion c) 4).toNat = handleField q.parent + 2 ^ 16 * (q.childCount % 2 ^ 10)
          + 2 ^ 26 * q.grantee.val + 2 ^ 30 * q.damaged.toNat + 2 ^ 31 * q.noticeOwed.toNat ∧
        (responseWord (.completion c) 5).toNat = q.lease.getD 0 % 2 ^ 20 + 2 ^ 20 * q.lease.isSome.toNat
          + 2 ^ 21 * (q.inFlight % 2 ^ 7) := by
  have word (w : Nat) : responseWord (.completion c) w =
      packWord ((recordWords (.completion c))[w]?.getD [] ++ (resultWords c.result)[w]?.getD []) := rfl
  simp only [word]
  cases c.result with
  | absent => exact ⟨handleWord_toNat c.handle, rfl, rfl, rfl, rfl⟩
  | conflicting h => exact ⟨handleWord_toNat c.handle, handleWord_toNat (some h), rfl, rfl, rfl⟩
  | queried q =>
    have handle := handleField_lt c.handle
    have label := q.ownerLabel.isLt
    have base := q.base.isLt
    have read := Bool.toNat_lt q.rights.read
    have write := Bool.toNat_lt q.rights.write
    have delegable := Bool.toNat_lt q.rights.delegable
    have state := grantCode_lt q.state
    have parent := handleField_lt q.parent
    have grantee := q.grantee.isLt
    have damaged := Bool.toNat_lt q.damaged
    have owed := Bool.toNat_lt q.noticeOwed
    have leased := Bool.toNat_lt q.lease.isSome
    refine ⟨?_, BitVec.eq_of_toNat_eq ?_, ?_, ?_, ?_⟩ <;> rw [packWord_toNat] <;>
      simp only [recordWords, resultWords, queryWords, rightsBits, List.getElem?_cons_zero, List.getElem?_cons_succ,
        Option.getD_some, List.nil_append, List.cons_append, packNat] <;> omega

theorem noticeWord1_toNat (n : Notice) :
    (responseWord (.notice n) 1).toNat = n.handle.toNat + 2 ^ 16 * n.label.toNat := by
  have word : responseWord (.notice n) 1 = packWord [⟨0, 16, n.handle.toNat⟩, ⟨16, 16, n.label.toNat⟩] := rfl
  have handle := n.handle.isLt
  have label := n.label.isLt
  rw [word, packWord_toNat]
  simp only [packNat]
  omega

theorem noticeWord4_toNat (n : Notice) :
    (responseWord (.notice n) 4).toNat = 2 ^ 16 * (n.moved % 2 ^ 10) + 2 ^ 26 * n.grantee.val := by
  have word : responseWord (.notice n) 4 = packWord [⟨16, 10, n.moved⟩, ⟨26, 4, n.grantee.val⟩] := rfl
  have grantee := n.grantee.isLt
  rw [word, packWord_toNat]
  simp only [packNat]
  omega

theorem rspWord_of_head {s : State} {r : ResponseRecord} {rest : List ResponseRecord} (h : s.responseQueue = r :: rest)
    (w : Nat) : rspWord s w = responseWord r w := by
  unfold rspWord
  rw [h]

theorem rspWord_of_empty {s : State} (h : s.responseQueue = []) (w : Nat) : rspWord s w = 0 := by
  unfold rspWord
  rw [h]

/-- The six response words stand at positions 16 to 21 (R177). -/
theorem registerWord_rspWord (s : State) {w : BitVec 5} (low : 16 ≤ w.toNat) (high : w.toNat ≤ 21) :
    registerWord s w = rspWord s (w.toNat - 16) := by
  unfold registerWord
  generalize w.toNat = n at low high ⊢
  interval_cases n <;> rfl

theorem registerWord_of_head {s : State} {r : ResponseRecord} {rest : List ResponseRecord} (h : s.responseQueue = r :: rest) :
    registerWord s 16 = responseWord r 0 ∧ registerWord s 17 = responseWord r 1 ∧ registerWord s 18 = responseWord r 2 ∧
    registerWord s 19 = responseWord r 3 ∧ registerWord s 20 = responseWord r 4 ∧ registerWord s 21 = responseWord r 5 :=
  ⟨rspWord_of_head h 0, rspWord_of_head h 1, rspWord_of_head h 2, rspWord_of_head h 3, rspWord_of_head h 4,
    rspWord_of_head h 5⟩

/-- The selected agent's fault slot stands at positions 28 to 30 (R177). -/
theorem registerWord_faultWords (s : State) : registerWord s 28 = faultWord0 s.faultSlots[s.faultSelect] ∧
    registerWord s 29 = faultWord1 s.faultSlots[s.faultSelect] ∧
    registerWord s 30 = faultWord2 s.faultSlots[s.faultSelect] := ⟨rfl, rfl, rfl⟩

theorem readRegister_of_running {s : State} (h : s.inReset = false) (w : BitVec 5) : readRegister s w = registerWord s w := by
  unfold readRegister
  rw [h]
  rfl

/-- Settles O47: register by register. -/
theorem statusRegistersShowTheirFields : Obligations.StatusRegistersShowTheirFields := by
  refine ⟨fun s reset w => if_pos reset, fun s running queues => ?_, rfl, rfl, rfl, rfl, rfl, rfl, rfl, rfl⟩
  simp only [readRegister_of_running running]
  obtain ⟨fault0, fault1, fault2⟩ := registerWord_faultWords s
  refine ⟨rfl, devStatus_toNat s, queueLevels_toNat queues, rfl, errorWord_toNat s.errors, rfl, rfl, rfl, rfl, rfl, rfl,
    faultSummary_getLsbD s, faultSelect_toNat s, fun none => ?_, fun f held => ?_, faultWord3_toNat s, ?_,
    fun empty w low high => ?_, fun c rest head => ?_, fun n rest head => ?_⟩
  · rw [fault0, fault1, fault2, none]
    exact ⟨rfl, rfl, rfl⟩
  · rw [fault0, fault1, fault2, held]
    exact ⟨faultWord0_toNat f, rfl, faultWord2_toNat f⟩
  · intro w mem
    simp only [List.mem_cons, List.not_mem_nil, or_false] at mem
    rcases mem with rfl | rfl | rfl | rfl | rfl | rfl | rfl | rfl <;> rfl
  · rw [registerWord_rspWord s low high, rspWord_of_empty empty]
  · obtain ⟨word0, word1, word2, word3, word4, word5⟩ := registerWord_of_head head
    rw [word0, word1, word2, word3, word4, word5]
    exact ⟨completionWord0_toNat c, completionWords_toNat c⟩
  · obtain ⟨word0, word1, word2, word3, word4, word5⟩ := registerWord_of_head head
    rw [word0, word1, word2, word3, word4, word5]
    exact ⟨rfl, noticeWord1_toNat n, rfl, rfl, noticeWord4_toNat n, rfl⟩

end Sys2Proof.Machine
end

section
/-! A tick in which nothing lapses, times out, frees or completes (R112, R120–R122, R126). -/

namespace Sys2Proof.Machine

/-- What counts down from neither 1 nor 0 does not reach 0. -/
theorem map_pred_ne_zero {count : Option Nat} (notOne : count ≠ some 1) (notZero : count ≠ some 0) :
    count.map (· - 1) ≠ some 0 := by
  rintro fell
  obtain ⟨n, rfl, reached⟩ := Option.map_eq_some_iff.mp fell
  rcases Nat.le_one_iff_eq_zero_or_eq_one.mp (Nat.sub_eq_zero_iff_le.mp reached) with rfl | rfl
  · exact notZero rfl
  · exact notOne rfl

/-- An operation after stage 1 is one from before it, with its timer lowered. -/
theorem CountsDown.retire_eq_some {s u : State} (counts : CountsDown s u) {k : RetireIx} {op : RetireOp}
    (slot : u.retire[k] = some op) :
    ∃ before, s.retire[k] = some before ∧ op.members = before.members ∧
      op.drainRemaining = before.drainRemaining.map (· - 1) := by
  rw [counts.others] at slot
  obtain ⟨before, held, rfl⟩ := Option.map_eq_some_iff.mp ((Vector.getElem_map _ _).symm.trans slot)
  exact ⟨before, held, rfl, rfl⟩

/-- Where no drain timer stands at 1 or 0, none stands at 0 after stage 1 (R112). -/
theorem CountsDown.timersAtZero {s u : State} (counts : CountsDown s u)
    (noneDue : ∀ (k : RetireIx) op, s.retire[k] = some op → op.drainRemaining ≠ some 1 ∧ op.drainRemaining ≠ some 0) :
    u.timersAtZero = [] := by
  refine List.filter_eq_nil_iff.mpr fun k _ runsOut => ?_
  obtain ⟨op, slot, zero⟩ := (Option.any_eq_true _ _).mp runsOut
  obtain ⟨before, held, -, timer⟩ := counts.retire_eq_some slot
  obtain ⟨notOne, notZero⟩ := noneDue k before held
  exact map_pred_ne_zero notOne notZero (timer ▸ of_decide_eq_true zero)

/-- Stage 1 makes no slot eligible, and none ineligible (R8). -/
theorem CountsDown.eligible {s u : State} (counts : CountsDown s u) (i : SlotIx) : u.eligible i = s.eligible i := by
  have tracker : u.tracker = s.tracker := by rw [counts.others]
  refine State.eligible_congr ?_ ?_ ?_ tracker <;> (rw [counts.grants]; split <;> rfl)

/-- Stage 3 of a tick in which no timer has run out. -/
theorem stageThree_of_none {s : State} (none : s.timersAtZero = []) : stageThree s = s := by
  have nobody : s.tracker.toList.filter (s.reaches []) = [] :=
    List.filter_eq_nil_iff.mpr fun e _ => by simp [State.reaches]
  unfold stageThree
  rw [none, nobody, List.map_nil, List.append_nil]
  rfl

/-- Settles O19. -/
theorem tickCountsDown : Obligations.TickCountsDown := by
  intro s running noneLapses operations calm noBarrier
  have counts := countdown_countsDown s.quiet
  generalize stageOne : countdown s.quiet = counted at counts
  have noneTimesOut : counted.timersAtZero = [] := counts.timersAtZero fun k op slot => (operations k op slot).2
  have settled : settle counted = counted := by
    refine settle_of_settled (fun i => (counts.eligible i).trans (calm i)) (fun k op slot => ?_) ?_
    · obtain ⟨before, held, members, -⟩ := counts.retire_eq_some slot
      exact members ▸ (operations k before held).1
    · rw [counts.others]; exact noBarrier
  have ticks : exec .leaseTick s = .next (tickEnd counted) := by
    have stages := leaseTick_of_none_due (stageOne ▸ counts.leasesAtZero noneLapses)
    rw [stageOne, stageThree_of_none noneTimesOut] at stages
    exact (happening_of_running running).trans (congrArg _ stages)
  refine ⟨tickEnd counted, ticks, fun i => ?_, ?_⟩
  · rw [tickEnd, settled, stopProcessor_grant, takeTest_grant]
    exact counts.grants i
  · have table : (tickEnd counted).grants = counted.grants := by
      rw [tickEnd, settled, stopProcessor_grants, takeTest_grants]
    rw [table, tickEnd, settled, counts.others]
    rfl

end Sys2Proof.Machine
end

section
/-! Revoking commands whose members are all held, so that their operation stays open (R101–R106). -/

namespace Sys2Proof.Machine

/-! ## An opening at which nothing frees -/

/-- Where something holds every member, their draining makes no slot eligible. -/
theorem NothingFreesAt.nothingEligible_drainedBy {s u : State} {isMember : SlotIx → Prop} {members : List SlotIx}
    (held : NothingFreesAt s isMember) (chosen : ∀ i, i ∈ members ↔ (s.grant i).state ≠ .free ∧ isMember i)
    (shape : ∀ i, u.grant i = { s.grant i with damaged := (u.grant i).damaged }) (tracker : u.tracker = s.tracker) :
    NothingEligible (drainedBy members u) := by
  intro i
  have unmoved : (drainedBy members u).tracker = s.tracker := (drainedBy_tracker members u).trans tracker
  have record := drainedBy_grant members u i
  rw [shape i] at record
  by_cases drains : i ∈ members ∧ (s.grant i).state.inUse = true
  · rw [if_pos drains] at record
    obtain ⟨used, member⟩ := (chosen i).mp drains.1
    refine Bool.eq_false_iff.mpr fun eligible => ?_
    obtain ⟨-, flight, leaf, notice⟩ := State.eligible_iff.mp eligible
    rw [record] at leaf notice
    have idle : s.inFlight i = 0 := by rw [← flight, State.inFlight, State.inFlight, unmoved]
    rcases held.held i member used with busy | parent | owes
    · omega
    · exact parent leaf
    · exact owes notice
  · rw [if_neg drains] at record
    rw [← held.none i]
    exact State.eligible_congr (by rw [record]) (by rw [record]) (by rw [record]) unmoved

/-- Members whose draining frees nothing stay members (R101). -/
theorem drainMembers_of_nothingEligible {members : List SlotIx} {s : State} (calm : NothingEligible (drainedBy members s)) :
    drainMembers members s = drainedBy members s := by
  rw [drainMembers_eq, freeAll_of_none calm, ite_self]

/-- A take at which no operation is emptied completes none (R107). -/
theorem completeTakes_of_nonempty {s : State} (nonempty : ∀ (k : RetireIx) op, s.retire[k] = some op → op.members ≠ [])
    (k : RetireIx) : completeTakes k s = s := by
  rw [completeTakes_eq_foldl]
  exact foldl_completeIfEmpty_of_nonempty fun j _ => nonempty j

/-- An operation over members that all stay is opened, and stays open (R101). -/
theorem openOperation_of_nothingEligible {kind : RetireKind} {r : CommandRecord} {target : Option Handle}
    {members : List SlotIx} {s : State} {k : RetireIx} (free : s.freeRetire = some k) (someMember : members ≠ [])
    (nonempty : ∀ (k : RetireIx) op, s.retire[k] = some op → op.members ≠ []) :
    let opened := s.setRetire k (some (openedOp kind r.tag target members s.config.drainTimeout))
    NothingEligible (drainedBy members opened) →
    openOperation kind r target members s = if kind = .purge then (drainedBy members opened).setProc .purging
      else takeTest (drainedBy members opened) := by
  intro opened calm
  have slots : (drainedBy members opened).retire = opened.retire := by rw [drainedBy_frame]
  have own : opened.retire[k] = some (openedOp kind r.tag target members s.config.drainTimeout) := by
    simp [opened, State.setRetire]
  have full : ∀ (j : RetireIx) op, (drainedBy members opened).retire[j] = some op → op.members ≠ [] := by
    intro j op slot
    rw [slots] at slot
    by_cases same : j = k
    · subst same
      rw [own] at slot
      exact Option.some.inj slot ▸ someMember
    · exact nonempty j op ((setRetire_get_of_ne same _).symm.trans slot)
  rw [openOperation_eq free, drainMembers_of_nothingEligible calm, completeTakes_of_nonempty full, afterOpening, slots, own]
  simp only [Option.isSome_some, and_true]

/-- The take of a revoking command whose members are all held, once they are known. -/
theorem opensOperation_of_openOperation {c : Instr} {s u : State} {r : CommandRecord} {rest : List CommandRecord}
    {kind : RetireKind} {target : Option Handle} {isMember : SlotIx → Prop} {members : List SlotIx}
    (ready : TakeReady s r rest) (revoking : r.revoking = true)
    (takes : exec c s = .next (stopProcessor (openOperation kind r target members (u.takeHead rest))))
    (chosen : ∀ i, i ∈ members ↔ (s.grant i).state ≠ .free ∧ isMember i)
    (someMember : ∃ i, (s.grant i).state ≠ .free ∧ isMember i)
    (held : NothingFreesAt s isMember) (read : Compared s u) (ports : u.ports = s.quiet.ports) :
    OpensOperation c s u r rest kind target isMember := by
  obtain ⟨k, free⟩ := ready.freeRetire revoking
  obtain ⟨none, lower⟩ := State.freeRetire_eq_some free
  have found : (u.takeHead rest).freeRetire = some k := by
    rw [← free, State.freeRetire, State.freeRetire, State.takeHead_retire, read.retire]
  let op := openedOp kind r.tag target members s.config.drainTimeout
  let drained := drainedBy members ((u.takeHead rest).setRetire k (some op))
  have calm : NothingEligible drained := held.nothingEligible_drainedBy chosen read.shape (congrArg Ports.tracker ports)
  have filled : members ≠ [] := by
    obtain ⟨i, member⟩ := someMember
    exact List.ne_nil_of_mem ((chosen i).mpr member)
  have nonempty : ∀ (k : RetireIx) op, (u.takeHead rest).retire[k] = some op → op.members ≠ [] := by
    rw [State.takeHead_retire, read.retire]
    exact held.nonempty
  let ended := if kind = .purge then drained.setProc .purging else takeTest drained
  have opens : openOperation kind r target members (u.takeHead rest) = ended := by
    have opening := openOperation_of_nothingEligible (kind := kind) (r := r) (target := target) found filled nonempty
    rw [State.takeHead_config, read.config] at opening
    exact opening calm
  have table : (stopProcessor ended).grants = drained.grants := by
    rw [stopProcessor_grants, apply_ite State.grants, takeTest_grants, State.setProc_grants, ite_self]
  have records (i : SlotIx) : drained.grant i =
      if i ∈ members ∧ (s.grant i).state.inUse = true then { u.grant i with state := .draining } else u.grant i := by
    rw [← show (u.grant i).state = (s.grant i).state by rw [read.shape i]]
    exact drainedBy_grant members _ i
  have frame : drained = { u with
      grants := drained.grants
      commandQueue := rest
      reserved := s.reserved + 1
      retire := s.retire.set k (some op) } := by
    rw [← read.retire, ← read.reserved]
    exact drainedBy_frame members _
  have processor : drained.processor = s.processor := (congrArg State.processor frame).trans read.processor
  refine ⟨k, members, stopProcessor ended, none, lower, chosen, takes.trans (by rw [opens]), fun i => ?_, ?_⟩
  · rw [State.grant_congr table, records]
  · intro opened
    have same : opened = drained := by
      rw [frame, ← table]
      rfl
    rw [same, ← processor]
    rfl

/-! ## The takes of the three commands -/

/-- The take of a REVOKE whose handle resolves (R103). -/
theorem exec_revoke_of_resolves {s : State} {r : CommandRecord} {rest : List CommandRecord} (ready : TakeReady s r rest)
    (passes : Passes r .revoke) (resolves : s.resolves r.handle = true) :
    let read := integrityRead (handleSlot r.handle) s.quiet
    exec .revoke s = .next (stopProcessor (openOperation .revoke r (some r.handle)
      (revokeMembers read (handleSlot r.handle)) (read.takeHead rest))) := by
  intro read
  have body : revokeBody r (s.quiet.takeHead rest) = (.stays, openOperation .revoke r (some r.handle)
      (revokeMembers read (handleSlot r.handle)) (read.takeHead rest)) := by
    unfold revokeBody
    rw [if_pos (show (s.quiet.takeHead rest).resolves r.handle = true from resolves), integrityRead_takeHead]
    rfl
  refine (take_of_passes ready passes revokeBody).trans ?_
  rw [body]
  rfl

/-- The take of a REVOKE_AGENT (R105). -/
theorem exec_revokeAgent_of_passes {s : State} {r : CommandRecord} {rest : List CommandRecord} (ready : TakeReady s r rest)
    (passes : Passes r .revokeAgent) :
    exec .revokeAgent s = .next (stopProcessor (openOperation .revokeAgent r none
      (agentMembers (integrityScan s.quiet) r.agent) ((integrityScan s.quiet).takeHead rest))) := by
  have body : revokeAgentBody r (s.quiet.takeHead rest) = (.stays, openOperation .revokeAgent r none
      (agentMembers (integrityScan s.quiet) r.agent) ((integrityScan s.quiet).takeHead rest)) := by
    unfold revokeAgentBody
    rw [integrityScan_takeHead]
    rfl
  refine (take_of_passes ready passes revokeAgentBody).trans ?_
  rw [body]
  rfl

/-- The take of a PURGE (R106). -/
theorem exec_purge_of_passes {s : State} {r : CommandRecord} {rest : List CommandRecord} (ready : TakeReady s r rest)
    (passes : Passes r .purge) :
    exec .purge s = .next (stopProcessor (openOperation .purge r none s.nonFree (s.quiet.takeHead rest))) :=
  take_of_passes ready passes purgeBody

/-- Settles O35. -/
theorem revokingCommandsOpenAnOperation : Obligations.RevokingCommandsOpenAnOperation := by
  intro s r rest ready i subtree agents
  refine ⟨fun passes used current held => ?_, fun passes held someMember => ?_, fun passes held someMember => ?_⟩
  · have read : Compared s (integrityRead i s.quiet) := (Compared.quiet s).read i
    refine opensOperation_of_openOperation ready (CommandRecord.revoking_of_kind passes.kind (.inl rfl))
      (exec_revoke_of_resolves ready passes (State.resolves_iff.mpr ⟨used, current⟩)) (fun j => ?_) ⟨i, used, .inl rfl⟩
      held read (integrityRead_ports i s.quiet)
    rw [State.mem_revokeMembers, read.ancestors, read.shape j]
  · have read : Compared s (integrityScan s.quiet) := (Compared.quiet s).scan
    have grantees (p : SlotIx) : ((integrityScan s.quiet).grant p).grantee = (s.grant p).grantee := by rw [read.shape p]
    refine opensOperation_of_openOperation ready (CommandRecord.revoking_of_kind passes.kind (.inr (.inl rfl)))
      (exec_revokeAgent_of_passes ready passes) (fun j => ?_) someMember held read (integrityScan_ports s.quiet)
    rw [State.mem_agentMembers, read.ancestors, read.shape j]
    simp only [grantees, agents]
  · obtain ⟨j, used⟩ := someMember
    exact opensOperation_of_openOperation ready (CommandRecord.revoking_of_kind passes.kind (.inr (.inr rfl)))
      (exec_purge_of_passes ready passes) (fun j => by rw [State.mem_nonFree, and_true]) ⟨j, used, trivial⟩ held
      (Compared.quiet s) rfl

end Sys2Proof.Machine
end

section
/-! Leases and owed notices: what a slot's record may become, and the work that frees no response place (R122, R123, R125). -/

namespace Sys2Proof.Machine

/-! ## One slot -/

/-- A lease in range, and a notice owed by a DRAINING grant without a lease alone (R122, R123, R125). -/
structure Grant.LeaseSound (g : Grant) : Prop where
  range : ∀ n, g.lease = some n → 1 ≤ n ∧ n ≤ 1048575
  owed  : ∀ n, g.noticeOwed = some n → g.state = .draining ∧ g.lease = none

theorem Grant.LeaseSound.of_noneOwed {g : Grant} (range : ∀ n, g.lease = some n → 1 ≤ n ∧ n ≤ 1048575)
    (none : g.noticeOwed = none) : g.LeaseSound := ⟨range, fun n owed => by rw [none] at owed; cases owed⟩

/-- A grant in use owes no notice. -/
theorem Grant.LeaseSound.noneOwed {g : Grant} (h : g.LeaseSound) (inUse : g.state.inUse = true) : g.noticeOwed = none := by
  refine Option.eq_none_iff_forall_ne_some.mpr fun n owed => ?_
  rw [(h.owed n owed).1] at inUse
  cases inUse

/-- A record may follow another in a slot: it is sound where that one was, and owes no notice that that one did not. -/
structure Grant.Follows (after before : Grant) : Prop where
  sound : before.LeaseSound → after.LeaseSound
  owes  : before.noticeOwed = none → after.noticeOwed = none

theorem Grant.Follows.refl {g : Grant} : g.Follows g := ⟨id, id⟩

theorem Grant.Follows.trans {a b c : Grant} (h : b.Follows a) (h' : c.Follows b) : c.Follows a :=
  ⟨h'.sound ∘ h.sound, h'.owes ∘ h.owes⟩

/-- What the invariant reads of a slot's record. -/
def Grant.term (g : Grant) : GrantState × Option Nat × Option Notice := (g.state, g.lease, g.noticeOwed)

theorem Grant.Follows.of_term {a b : Grant} (h : b.term = a.term) : b.Follows a := by
  simp only [Grant.term, Prod.mk.injEq] at h
  obtain ⟨state, lease, owed⟩ := h
  exact ⟨fun hs => ⟨by rw [lease]; exact hs.range, by rw [owed, state, lease]; exact hs.owed⟩, owed.trans⟩

theorem Grant.Follows.of_noneOwed {a b : Grant} (range : ∀ n, b.lease = some n → 1 ≤ n ∧ n ≤ 1048575)
    (none : b.noticeOwed = none) : b.Follows a := ⟨fun _ => .of_noneOwed range none, fun _ => none⟩

theorem Grant.follows_freeRecord (g : Grant) (n : BitVec 6) : (freeRecord n).Follows g :=
  .of_noneOwed (fun _ h => nomatch h) rfl

/-- A grant that enters DRAINING keeps its lease, which counts no more (R6, R122). -/
theorem Grant.follows_draining (g : Grant) : Grant.Follows { g with state := .draining } g :=
  ⟨fun hs => ⟨hs.range, fun n owed => ⟨rfl, (hs.owed n owed).2⟩⟩, id⟩

theorem leaseOf_range {ticks n : Nat} (h : leaseOf ticks = some n) (le : ticks ≤ maxLease) : 1 ≤ n ∧ n ≤ 1048575 := by
  unfold leaseOf at h
  split at h
  · cases h
  · cases h
    exact ⟨by omega, le⟩

/-- A MODIFY gives a lease in range, to a grant in use (R90, R92, R95). -/
theorem CommandRecord.follows_applied {r : CommandRecord} {g : Grant} (lease : r.setLease = true → r.lease ≤ maxLease)
    (inUse : g.state.inUse = true) : (r.applied g).Follows g := by
  refine ⟨fun hs => .of_noneOwed (fun n found => ?_) (hs.noneOwed inUse), id⟩
  have found : (if r.setLease then leaseOf r.lease else g.lease) = some n := found
  split at found
  · next sets => exact leaseOf_range found (lease sets)
  · exact hs.range n found

/-! ## The whole state -/

/-- The places of the response queue that hold a record or are reserved (R62). -/
def State.held (s : State) : Nat := s.responseQueue.length + s.reserved

theorem leasesSound_iff {s : State} :
    LeasesSound s ↔ (∀ i, (s.grant i).LeaseSound) ∧ ((∃ i, (s.grant i).noticeOwed ≠ none) → 32 ≤ s.held) := by
  rw [← State.owesNotice_iff]
  unfold State.held
  rw [← State.unreserved_eq_zero]
  exact ⟨fun h => ⟨fun i => ⟨h.range i, h.owed i⟩, h.places⟩, fun h => ⟨fun i => (h.1 i).range, fun i => (h.1 i).owed, h.2⟩⟩

/-- Work after which each slot's record may follow the one before, and that frees no place of the response queue. -/
structure KeepsLeases (s t : State) : Prop where
  slots  : ∀ i, (t.grant i).Follows (s.grant i)
  places : s.held ≤ t.held

theorem LeasesSound.keeps {s t : State} (hs : LeasesSound s) (h : KeepsLeases s t) : LeasesSound t := by
  obtain ⟨sound, full⟩ := leasesSound_iff.mp hs
  refine leasesSound_iff.mpr ⟨fun i => (h.slots i).sound (sound i), fun ⟨i, owed⟩ => ?_⟩
  exact (full ⟨i, mt (h.slots i).owes owed⟩).trans h.places

theorem KeepsLeases.trans {s u t : State} (h : KeepsLeases s u) (h' : KeepsLeases u t) : KeepsLeases s t :=
  ⟨fun i => (h.slots i).trans (h'.slots i), h.places.trans h'.places⟩

theorem KeepsLeases.of_grants {s t : State} (h : t.grants = s.grants) (places : s.held ≤ t.held) : KeepsLeases s t :=
  ⟨fun i => by rw [State.grant_congr h]; exact .refl, places⟩

/-- What the invariant reads of a state. -/
def State.tenancy (s : State) : GrantTable × Nat := (s.grants, s.held)

/-- Writes that the invariant does not read. -/
theorem KeepsLeases.other {s t : State} (h : t.tenancy = s.tenancy) : KeepsLeases s t := by
  simp only [State.tenancy, Prod.mk.injEq] at h
  exact .of_grants h.1 h.2.ge

theorem KeepsLeases.refl {s : State} : KeepsLeases s s := .other rfl

theorem KeepsLeases.then_other {s u t : State} (h : KeepsLeases s u) (ho : t.tenancy = u.tenancy) : KeepsLeases s t :=
  h.trans (.other ho)

theorem KeepsLeases.of_inner {s t : State} (h : t.inner = s.inner) : KeepsLeases s t := by
  obtain ⟨control, grants, -⟩ := inner_eq_iff.mp h
  obtain ⟨-, records, reserved, -⟩ := control_eq_iff.mp control
  exact .of_grants grants (by unfold State.held; rw [records, reserved])

theorem foldl_keepsLeases {α : Type} {f : State → α → State} (h : ∀ s x, KeepsLeases s (f s x)) (l : List α) (s : State) :
    KeepsLeases s (l.foldl f s) := by
  induction l generalizing s with
  | nil => exact .refl
  | cons x rest ih => exact (h s x).trans (ih _)

/-! ## The table -/

theorem setGrant_keepsLeases {s : State} {i : SlotIx} {g : Grant} (h : g.Follows (s.grant i)) :
    KeepsLeases s (s.setGrant i g) := by
  refine ⟨fun j => ?_, le_rfl⟩
  rw [State.grant_setGrant]
  split
  · next same => rw [same]; exact h
  · exact .refl

theorem integrityRead_keepsLeases (i : SlotIx) (s : State) : KeepsLeases s (integrityRead i s) :=
  ⟨fun j => by rw [integrityRead_grant]; exact .of_term rfl, by rw [integrityRead_frame]; rfl⟩

theorem integrityScan_keepsLeases (s : State) : KeepsLeases s (integrityScan s) :=
  foldl_keepsLeases (fun s i => integrityRead_keepsLeases i s) _ s

theorem drainSlots_keepsLeases (which : SlotIx → Bool) (s : State) : KeepsLeases s (drainSlots which s) := by
  refine ⟨fun j => ?_, le_rfl⟩
  rw [drainSlots_grant]
  split
  · exact Grant.follows_draining _
  · exact .refl

theorem unlinkChild_keepsLeases (parent : Option SlotIx) (i : SlotIx) (s : State) :
    KeepsLeases s (unlinkChild parent i s) := by
  cases parent with
  | none => exact .refl
  | some p => exact setGrant_keepsLeases (.of_term rfl)

theorem freeSlot_keepsLeases (i : SlotIx) (s : State) : KeepsLeases s (freeSlot i s) :=
  ((setGrant_keepsLeases (Grant.follows_freeRecord _ _)).trans (unlinkChild_keepsLeases _ i _)).then_other rfl

theorem freeAll_keepsLeases (s : State) : KeepsLeases s (freeAll s) := by
  have freed (n : Nat) : ∀ s, KeepsLeases s (freeLoop n s) := by
    induction n with
    | zero => exact fun _ => .refl
    | succ n ih =>
      intro s
      unfold freeLoop
      split
      · exact .refl
      · exact (freeSlot_keepsLeases _ s).trans (ih _)
  exact freed 1024 s

theorem linkChild_keepsLeases (parent : Option SlotIx) (i : SlotIx) (s : State) : KeepsLeases s (linkChild parent i s) := by
  cases parent with
  | none => exact .refl
  | some p => exact setGrant_keepsLeases (.of_term rfl)

theorem allocate_keepsLeases {r : CommandRecord} (lease : r.lease ≤ maxLease) (i : SlotIx) (rest : List SlotIx)
    (base : BitVec 32) (parent : Option SlotIx) (depth : Nat) (s : State) :
    KeepsLeases s (allocate r i rest base parent depth s) := by
  have listed : KeepsLeases s { s with freeList := rest } := .other rfl
  exact (listed.trans (setGrant_keepsLeases (.of_noneOwed (fun _ h => leaseOf_range h lease) rfl))).trans
    (linkChild_keepsLeases parent i _)

/-! ## The response queue and the processor -/

@[simp] theorem takeTest_tenancy (s : State) : (takeTest s).tenancy = s.tenancy := by rw [takeTest_frame]; rfl

@[simp] theorem stopProcessor_tenancy (s : State) : (stopProcessor s).tenancy = s.tenancy := by
  rw [stopProcessor_frame]; rfl

@[simp] theorem setProc_tenancy (s : State) (p : ProcState) : (s.setProc p).tenancy = s.tenancy := rfl

theorem post_keepsLeases (s : State) (r : ResponseRecord) : KeepsLeases s (s.post r) := by
  refine .of_grants rfl ?_
  show _ ≤ (s.responseQueue ++ [r]).length + s.reserved
  rw [List.length_append]
  unfold State.held
  omega

/-- A completion takes the place that was reserved for it (R62). -/
theorem postReserved_keepsLeases (s : State) (c : Completion) : KeepsLeases s (s.postReserved c) := by
  refine .of_grants rfl ?_
  show _ ≤ (s.responseQueue ++ [_]).length + (s.reserved - 1)
  rw [List.length_append, List.length_singleton]
  unfold State.held
  omega

/-- A posted notice is owed no more (R64). -/
theorem postOwedOf_keepsLeases (i : SlotIx) (n : Notice) (s : State) : KeepsLeases s (postOwedOf i n s) := by
  have served : KeepsLeases s (s.setGrant i { s.grant i with noticeOwed := none }) :=
    setGrant_keepsLeases ⟨fun hs => .of_noneOwed hs.range rfl, fun _ => rfl⟩
  exact served.trans (post_keepsLeases _ _)

theorem postOwed_keepsLeases (n : Nat) (s : State) : KeepsLeases s (postOwed n s) := by
  induction n generalizing s with
  | zero => exact .refl
  | succ n ih =>
    unfold postOwed
    split
    · exact .refl
    · split
      · exact .refl
      · split
        · exact .refl
        · exact (postOwedOf_keepsLeases _ _ s).trans (ih _)

/-- Enough postings leave a notice owed only beside a full queue (R64). -/
theorem postOwed_fills {n : Nat} {s : State} (enough : 32 ≤ s.held + n) :
    (∃ i, ((postOwed n s).grant i).noticeOwed ≠ none) → 32 ≤ (postOwed n s).held := by
  induction n generalizing s with
  | zero => exact fun _ => enough
  | succ n ih =>
    unfold postOwed
    split
    · next full => exact fun _ => State.unreserved_eq_zero.mp full
    · split
      · next none => exact fun ⟨i, owed⟩ => absurd (State.firstOwed_eq_none.mp none i) owed
      · next first =>
        split
        · next none =>
          have found := List.find?_some first
          rw [none] at found
          cases found
        · refine ih ?_
          show 32 ≤ (s.responseQueue ++ [_]).length + s.reserved + n
          rw [List.length_append, List.length_singleton]
          unfold State.held at enough
          omega

/-! ## Settling -/

theorem completeRetire_keepsLeases (k : RetireIx) (op : RetireOp) (s : State) : KeepsLeases s (completeRetire k op s) := by
  have effects : KeepsLeases s (if op.kind = .purge then purgeEffects s else s) := by
    split
    · exact .other rfl
    · exact .refl
  have done : KeepsLeases s (retireDone k op s) := (effects.trans (postReserved_keepsLeases _ _)).then_other rfl
  rw [completeRetire_eq]
  unfold processorAfterRetire
  split <;> exact done.then_other (by simp)

theorem completeIfEmpty_keepsLeases (s : State) (k : RetireIx) : KeepsLeases s (completeIfEmpty s k) := by
  unfold completeIfEmpty
  split
  · exact .refl
  · split
    · exact completeRetire_keepsLeases _ _ s
    · exact .refl

theorem completeBarrier_keepsLeases (s : State) : KeepsLeases s (completeBarrier s) := by
  unfold completeBarrier
  split
  · exact .refl
  · split
    · exact .refl
    · split
      · exact (postReserved_keepsLeases s _).then_other (takeTest_tenancy _)
      · exact (postReserved_keepsLeases s _).then_other rfl
      all_goals exact .refl

theorem settle_keepsLeases (s : State) : KeepsLeases s (settle s) :=
  ((freeAll_keepsLeases s).trans (foldl_keepsLeases completeIfEmpty_keepsLeases _ _)).trans (completeBarrier_keepsLeases _)

end Sys2Proof.Machine
end

section
/-! No command leaves a lease of 0, or a notice owed beside an unreserved place (R122, R125). -/

namespace Sys2Proof.Machine

/-! ## Accesses and memory completions -/

theorem presentRequest_keepsLeases (a : AgentIx) (q : Request) (s : State) : KeepsLeases s (presentRequest a q s) := by
  unfold presentRequest
  split
  · exact .other rfl
  · exact .refl

theorem accessTake_keepsLeases (s : State) : KeepsLeases s (accessTake s) := by
  have checked (a : AgentIx) (q : Request) (u : State) : KeepsLeases u (accessCheck a q u).2 := by
    unfold accessCheck
    split
    · exact .refl
    · exact integrityRead_keepsLeases _ u
  have taken (a : AgentIx) (q : Request) : KeepsLeases s (takeLane a q s) := by
    have lane : KeepsLeases s (s.taking a) := .other rfl
    have answered {u : State} (h : u.inner = (accessCheck a q (s.taking a)).2.inner) : KeepsLeases s (stopProcessor u) :=
      ((lane.trans (checked a q (s.taking a))).trans (.of_inner h)).then_other (stopProcessor_tenancy u)
    unfold takeLane
    dsimp only
    split
    · next check => exact answered ((issueAccess_inner a q _).trans (congrArg (State.inner ∘ Prod.snd) check.symm))
    · next check => exact answered ((faultAccess_inner a q _ _).trans (congrArg (State.inner ∘ Prod.snd) check.symm))
  unfold accessTake
  split
  · exact .refl
  · split
    · exact .refl
    · exact taken _ _

theorem memoryCompletion_keepsLeases (k : EntryIx) (status : MemStatus) (data : List Byte) (s : State) :
    KeepsLeases s (memoryCompletion k status data s) := by
  unfold memoryCompletion
  split
  · have emptied : KeepsLeases s ((answered s.tracker[k] status data s).setEntry k Entry.emptied) :=
      .of_inner (answered_inner s.tracker[k] status data s)
    rw [completeIssued_eq]
    unfold settleIfDraining
    split
    · exact emptied.trans (settle_keepsLeases _)
    · exact emptied
  · exact .other rfl
  · exact .other (stopProcessor_tenancy _)

/-! ## Draining -/

theorem freeing_keepsLeases (i : SlotIx) (s : State) : KeepsLeases s (freeing i s) := by
  unfold freeing
  split
  · exact settle_keepsLeases s
  · exact .refl

theorem retireCompletion_keepsLeases (k : RetireIx) (s : State) : KeepsLeases s (retireCompletion k s) := by
  unfold retireCompletion
  split
  · exact .refl
  · split
    · exact (completeRetire_keepsLeases _ _ s).trans (completeBarrier_keepsLeases _)
    · exact .refl

theorem timeoutRetires_keepsLeases (ks : List RetireIx) (s : State) : KeepsLeases s (timeoutRetires ks s) :=
  (foldl_keepsLeases (fun s k => .other (by rw [timeoutRetire_frame]; rfl)) ks s).then_other rfl

theorem drainTimeout_keepsLeases (k : RetireIx) (s : State) : KeepsLeases s (drainTimeout k s) := by
  unfold drainTimeout
  split
  · exact ((timeoutRetires_keepsLeases [k] s).trans (settle_keepsLeases _)).then_other (stopProcessor_tenancy _)
  · exact .refl

theorem owedNoticePosted_keepsLeases (s : State) : KeepsLeases s (owedNoticePosted s) := by
  unfold owedNoticePosted
  split
  · exact .refl
  · exact ((postOwed_keepsLeases 1 s).trans (settle_keepsLeases _)).then_other (takeTest_tenancy _)

/-! ## Takes of the command processor -/

theorem endTake_keepsLeases (r : CommandRecord) (v : Verdict) (s : State) : KeepsLeases s (endTake r v s) := by
  cases v with
  | stays => exact .other (stopProcessor_tenancy s)
  | completes st h res =>
    have posted := postReserved_keepsLeases s { tag := r.tag, status := st, kind := r.kindCode, handle := h, result := res }
    refine posted.then_other ((stopProcessor_tenancy _).trans ?_)
    split
    · rfl
    · exact takeTest_tenancy _

theorem takeCommand_keepsLeases {wanted : Option CommandKind} {body : CommandRecord → State → Verdict × State} {s : State}
    (h : ∀ r u, KeepsLeases u (body r u).2) : KeepsLeases s (takeCommand wanted body s) := by
  have reserved (rest : List CommandRecord) : KeepsLeases s (s.takeHead rest) := .of_grants rfl (Nat.le_succ _)
  unfold takeCommand
  split
  · exact .refl
  · split
    · split
      · exact (reserved _).trans (endTake_keepsLeases _ _ _)
      · exact ((reserved _).trans (h _ _)).trans (endTake_keepsLeases _ _ _)
    · exact .refl

theorem CommandRecord.lease_le {r : CommandRecord} (h : r.grantOperandsBad = false) : r.lease ≤ maxLease := by
  rw [CommandRecord.grantOperandsBad, Bool.or_eq_false_iff, decide_eq_false_iff_not, not_lt] at h
  exact h.2

theorem allocateChecked_keepsLeases {r : CommandRecord} (lease : r.lease ≤ maxLease) (base : BitVec 32)
    (parent : Option SlotIx) (depth : Nat) (s : State) : KeepsLeases s (allocateChecked r base parent depth s).2 := by
  unfold allocateChecked
  split
  · exact .refl
  · split
    · exact .refl
    · exact allocate_keepsLeases lease _ _ base parent depth s

theorem createBody_keepsLeases (r : CommandRecord) (s : State) : KeepsLeases s (createBody r s).2 := by
  unfold createBody
  split_ifs with bad
  · exact .refl
  · exact .refl
  · exact .refl
  · exact allocateChecked_keepsLeases (CommandRecord.lease_le (by simpa using bad)) _ _ _ s

theorem deriveBody_keepsLeases (r : CommandRecord) (s : State) : KeepsLeases s (deriveBody r s).2 := by
  have derived (p : SlotIx) (good : r.grantOperandsBad = false) (u : State) : KeepsLeases u (deriveFrom p r u).2 := by
    unfold deriveFrom
    dsimp only
    split_ifs
    · exact .refl
    · exact .refl
    · exact .refl
    · exact .refl
    · exact .refl
    · exact allocateChecked_keepsLeases (CommandRecord.lease_le good) _ _ _ u
  unfold deriveBody
  split_ifs with bad
  · exact .refl
  · exact .refl
  · exact (integrityRead_keepsLeases _ s).trans (derived _ (by simpa using bad) _)

theorem CommandRecord.modify_lease {r : CommandRecord} (h : r.modifyBad = false) (sets : r.setLease = true) :
    r.lease ≤ maxLease := by
  simp only [CommandRecord.modifyBad, Bool.or_eq_false_iff, sets, if_true, decide_eq_false_iff_not, not_lt] at h
  exact h.1.2

theorem modifyBody_keepsLeases (r : CommandRecord) (s : State) : KeepsLeases s (modifyBody r s).2 := by
  have modified (i : SlotIx) (good : r.modifyBad = false) (u : State) (inUse : (u.grant i).state.inUse = true) :
      KeepsLeases u (modifyTarget i r u).2 := by
    unfold modifyTarget
    dsimp only
    split_ifs
    · exact .refl
    · exact .refl
    · exact .refl
    · exact .refl
    · exact setGrant_keepsLeases (CommandRecord.follows_applied (CommandRecord.modify_lease good) inUse)
  unfold modifyBody
  split_ifs with bad unresolved
  · exact .refl
  · exact .refl
  · have inUse := modifyStateOk_inUse (by simpa using (not_or.mp unresolved).2)
    exact (integrityRead_keepsLeases _ s).trans
      (modified _ (by simpa using bad) _ (by rw [integrityRead_state]; exact inUse))

theorem queryBody_keepsLeases (r : CommandRecord) (s : State) : KeepsLeases s (queryBody r s).2 := by
  unfold queryBody
  split
  · exact integrityRead_keepsLeases _ s
  · exact .refl

theorem openOperation_keepsLeases (kind : RetireKind) (r : CommandRecord) (target : Option Handle) (members : List SlotIx)
    (s : State) : KeepsLeases s (openOperation kind r target members s) := by
  unfold openOperation
  split
  · exact .refl
  · next k _ =>
    have opened : KeepsLeases s (s.setRetire k (some (openedOp kind r.tag target members s.config.drainTimeout))) := .other rfl
    have drained (u : State) : KeepsLeases u (drainMembers members u) := by
      unfold drainMembers
      split
      · exact (drainSlots_keepsLeases _ u).trans (freeAll_keepsLeases _)
      · exact .refl
    have completed (u : State) : KeepsLeases u (completeTakes k u) := by
      rw [completeTakes_eq_foldl]
      exact foldl_keepsLeases completeIfEmpty_keepsLeases _ u
    refine ((opened.trans (drained _)).trans (completed _)).then_other ?_
    unfold afterOpening
    split
    · rfl
    · exact takeTest_tenancy _

theorem revokeBody_keepsLeases (r : CommandRecord) (s : State) : KeepsLeases s (revokeBody r s).2 := by
  unfold revokeBody
  split
  · exact (integrityRead_keepsLeases _ s).trans (openOperation_keepsLeases _ _ _ _ _)
  · exact .refl

theorem revokeAgentBody_keepsLeases (r : CommandRecord) (s : State) : KeepsLeases s (revokeAgentBody r s).2 :=
  (integrityScan_keepsLeases s).trans (openOperation_keepsLeases _ _ _ _ _)

theorem purgeBody_keepsLeases (r : CommandRecord) (s : State) : KeepsLeases s (purgeBody r s).2 :=
  openOperation_keepsLeases _ _ _ _ s

theorem barrierBody_keepsLeases (r : CommandRecord) (s : State) : KeepsLeases s (barrierBody r s).2 := by
  unfold barrierBody
  split
  · exact .refl
  · exact .other rfl

theorem agentSetBody_keepsLeases (r : CommandRecord) (s : State) : KeepsLeases s (agentSetBody r s).2 := by
  unfold agentSetBody
  split_ifs
  · exact .refl
  · exact .refl
  · exact .other rfl

theorem moveAgent_keepsLeases (source target : AgentState) (r : CommandRecord) (s : State) :
    KeepsLeases s (moveAgent source target r s).2 := by
  unfold moveAgent
  split
  · exact .other rfl
  · exact .refl

theorem excludeSetBody_keepsLeases (r : CommandRecord) (s : State) : KeepsLeases s (excludeSetBody r s).2 := by
  have enabled (u : State) : KeepsLeases u (enableRange r u).2 := by
    unfold enableRange
    split
    · exact .refl
    · exact .other rfl
  unfold excludeSetBody
  split_ifs
  · exact .refl
  · exact .refl
  · exact .refl
  · exact (integrityScan_keepsLeases s).trans (enabled _)
  · exact .other rfl

theorem freezeBody_keepsLeases (r : CommandRecord) (s : State) : KeepsLeases s (freezeBody r s).2 := by
  unfold freezeBody
  split_ifs
  · exact .refl
  · exact .refl
  · exact .other rfl

theorem configureBody_keepsLeases (r : CommandRecord) (s : State) : KeepsLeases s (configureBody r s).2 := by
  unfold configureBody
  split_ifs
  · exact .refl
  · exact .refl
  · exact .other rfl

/-! ## Resets -/

/-- A table of FREE slots holds no lease and owes no notice. -/
theorem LeasesSound.of_free {s : State} (free : ∀ i, s.grant i = freeRecord (s.grant i).generation) : LeasesSound s := by
  have none (i : SlotIx) : (s.grant i).noticeOwed = none := by rw [free i]; rfl
  refine leasesSound_iff.mpr ⟨fun i => .of_noneOwed (fun n h => ?_) (none i), fun ⟨i, owed⟩ => absurd (none i) owed⟩
  rw [free i] at h
  cases h

/-- A reset leaves every slot FREE (R21, R79). -/
theorem grantAt_released_free (t : GrantTable) (i : SlotIx) : grantAt (mapGrants (fun _ g => releasedRecord g) t) i =
    freeRecord (grantAt (mapGrants (fun _ g => releasedRecord g) t) i).generation := by
  rw [grantAt_released]
  exact releasedRecord_free _

theorem softReset_leasesSound (s : State) : LeasesSound (softReset s) := .of_free (grantAt_released_free s.grants)

/-! ## Host writes -/

theorem pushCommand_keepsLeases (s : State) : KeepsLeases s (pushCommand s) := by
  unfold pushCommand
  split
  · exact .other rfl
  · dsimp only
    split
    · exact .other (takeTest_tenancy _)
    · exact .other rfl

/-- The notices owed take the place that a pop frees, before anything else can (R63, R64). -/
theorem LeasesSound.popResponse {s : State} (hs : LeasesSound s) : LeasesSound (popResponse s) := by
  obtain ⟨sound, full⟩ := leasesSound_iff.mp hs
  unfold Machine.popResponse
  split
  · exact hs
  · next head rest queued =>
    let popped : State := { s with responseQueue := rest }
    dsimp only
    split
    · have kept := postOwed_keepsLeases 32 popped
      have posted : LeasesSound (postOwed 32 popped) :=
        leasesSound_iff.mpr ⟨fun i => (kept.slots i).sound (sound i), postOwed_fills (Nat.le_add_left 32 _)⟩
      exact (posted.keeps (settle_keepsLeases _)).keeps (.other (takeTest_tenancy _))
    · next none =>
      have owes : ¬ ∃ i, (s.grant i).noticeOwed ≠ .none := fun owed => none (State.owesNotice_iff.mpr owed)
      have clear : LeasesSound popped := leasesSound_iff.mpr ⟨sound, fun owed => absurd owed owes⟩
      exact clear.keeps (.other (takeTest_tenancy _))

theorem resumeAction_keepsLeases (s : State) : KeepsLeases s (resumeAction s) := by
  unfold resumeAction
  split
  · exact .other (takeTest_tenancy _)
  · exact .refl

theorem discardAction_keepsLeases (s : State) : KeepsLeases s (discardAction s) := by
  unfold discardAction
  split_ifs
  · exact .other (takeTest_tenancy _)
  · exact .other rfl
  · exact .refl

theorem discardRemoval_keepsLeases (s : State) : KeepsLeases s (discardRemoval s) := by
  unfold discardRemoval
  split
  · exact .refl
  · split
    · dsimp only
      split
      · exact (post_keepsLeases s _).then_other (takeTest_tenancy _)
      · exact (post_keepsLeases s _).then_other rfl
    · exact .refl

theorem LeasesSound.writeControl {s : State} (hs : LeasesSound s) (v : Word) : LeasesSound (writeControl v s) := by
  have cleared : LeasesSound (if v.getLsbD 3 then clearPushRefused s else s) := by
    split
    · exact hs.keeps (.other rfl)
    · exact hs
  unfold Machine.writeControl
  dsimp only
  split
  · exact softReset_leasesSound s
  · split
    · exact cleared.keeps (discardAction_keepsLeases _)
    · split
      · exact cleared.keeps (resumeAction_keepsLeases _)
      · exact cleared

theorem LeasesSound.hostWrite {s : State} (hs : LeasesSound s) (reg : BitVec 5) (v : Word) : LeasesSound (hostWrite reg v s) := by
  unfold Machine.hostWrite
  split
  case h_1 => exact hs.writeControl v
  case h_10 => exact hs.keeps (pushCommand_keepsLeases s)
  case h_11 => exact hs.popResponse
  case h_12 => exact hs.keeps (.of_inner (selectFault_inner v s))
  case h_13 => exact hs.keeps (.of_inner (acknowledgeFault_inner v s))
  all_goals exact hs.keeps (.other rfl)

/-! ## The service port -/

theorem judgeGrantRead_keepsLeases (hi lo : Byte) (s : State) : KeepsLeases s (judgeGrantRead hi lo s) := by
  unfold judgeGrantRead
  split
  · exact .other rfl
  · next i _ =>
    split
    · exact .other rfl
    · have read : KeepsLeases s (grantReadCheck i s) := by
        unfold grantReadCheck
        split
        · exact .refl
        · exact integrityRead_keepsLeases i s
      exact read.then_other (stopProcessor_tenancy _)

theorem judgedAfter_keepsLeases {received : List Byte} {judge : State → State} {s : State} (h : (judge s).inner = s.inner) :
    KeepsLeases s (judgedAfter received judge s) := by
  unfold judgedAfter
  split
  · exact .of_inner h
  · exact .refl

theorem grantRead_keepsLeases (lo : Byte) (s : State) : KeepsLeases s (grantRead lo s) := by
  unfold grantRead
  split
  · exact .refl
  · exact judgeGrantRead_keepsLeases _ lo s

theorem commandByte_keepsLeases (b : Byte) (s : State) : KeepsLeases s (commandByte b s) := by
  unfold commandByte
  split
  · split <;> exact .other rfl
  · split
    · exact .of_inner (judgeAgentRead_inner b s)
    · exact .of_inner (judgeHold_inner _ _ b s)
    · exact .of_inner (judgeHold_inner _ _ b s)
    · exact .other rfl
  · exact judgeGrantRead_keepsLeases _ b s

theorem receiveByte_keepsLeases (b : Byte) (s : State) : KeepsLeases s (receiveByte b s) := by
  unfold receiveByte
  split
  · exact .refl
  · exact commandByte_keepsLeases b s
  · unfold answerByte
    split <;> exact .other rfl
  · exact .other rfl

/-! ## The tick -/

/-- The state is sound but for leases that have reached 0, of the slots that are yet to lapse. -/
structure LeasesSoundBut (l : List SlotIx) (s : State) : Prop where
  slots : ∀ i, i ∉ l → (s.grant i).LeaseSound
  used  : ∀ i ∈ l, (s.grant i).state ≠ .free
  full  : (∃ i, (s.grant i).noticeOwed ≠ none) → 32 ≤ s.held

theorem leasesSoundBut_nil {s : State} : LeasesSoundBut [] s ↔ LeasesSound s := by
  rw [leasesSound_iff]
  exact ⟨fun h => ⟨fun i => h.slots i (by simp), h.full⟩, fun h => ⟨fun i _ => h.1 i, fun _ hi => (nomatch hi), h.2⟩⟩

/-- A lease that counts down stays in range, or reaches 0 in a grant in use (R122). -/
theorem Grant.LeaseSound.countLease {g : Grant} (hs : g.LeaseSound) :
    (countLease g).LeaseSound ∨ (countLease g).state.inUse = true ∧ (countLease g).lease = some 0 := by
  unfold Machine.countLease
  split
  · next inUse =>
    cases lease : g.lease with
    | none => exact .inl (.of_noneOwed (fun _ h => nomatch h) (hs.noneOwed inUse))
    | some n =>
      obtain ⟨low, high⟩ := hs.range n lease
      by_cases last : n = 1
      · exact .inr ⟨inUse, by rw [last]; rfl⟩
      · refine .inl (.of_noneOwed (fun m h => ?_) (hs.noneOwed inUse))
        obtain rfl : n - 1 = m := Option.some.inj h
        omega
  · exact .inl hs

theorem LeasesSound.countdown {s : State} (hs : LeasesSound s) :
    LeasesSoundBut ((countdown s).slots.filter (lapsing (countdown s))) (countdown s) := by
  obtain ⟨sound, full⟩ := leasesSound_iff.mp hs
  have grant (i : SlotIx) : (Machine.countdown s).grant i = Machine.countLease (s.grant i) :=
    State.grant_updateGrants s (fun _ g => Machine.countLease g) i rfl
  have used {i : SlotIx} (lapses : lapsing (Machine.countdown s) i = true) : ((Machine.countdown s).grant i).state ≠ .free := by
    rw [lapsing, Bool.and_eq_true] at lapses
    exact State.ne_free_of_inUse lapses.1
  refine ⟨fun i out => ?_, fun i hi => used (List.mem_filter.mp hi).2, fun ⟨i, owed⟩ => full ⟨i, fun none => owed ?_⟩⟩
  · have still : lapsing (Machine.countdown s) i ≠ true := fun lapses =>
      out (List.mem_filter.mpr ⟨State.mem_slots (used lapses), lapses⟩)
    rw [ne_eq, lapsing, Bool.and_eq_true, decide_eq_true_eq, grant] at still
    rw [grant]
    exact (sound i).countLease.resolve_right still
  · rw [grant]
    unfold Machine.countLease
    split <;> exact none

/-- A grant that lapses is DRAINING afterwards and has no lease (R123). -/
theorem lapseGrant_own {s : State} {i : SlotIx} (used : (s.grant i).state ≠ .free) :
    ((lapseGrant s i).grant i).LeaseSound := by
  have moved : (if s.lapseMoves i i then GrantState.draining else (s.grant i).state) = .draining := by
    unfold State.lapseMoves
    cases state : (s.grant i).state with
    | free => exact absurd state used
    | live | suspended | draining => simp [GrantState.inUse]
  rw [lapseGrant_eq, offerNotice_grant, lapseRead_grant, if_pos rfl, moved]
  split <;> exact ⟨fun _ h => (nomatch h), fun _ _ => ⟨rfl, rfl⟩⟩

/-- A lapse moves its descendants to DRAINING, and leaves every other grant as it is (R6). -/
theorem lapseGrant_others {s : State} {i j : SlotIx} (other : j ≠ i) : ((lapseGrant s i).grant j).Follows (s.grant j) := by
  rw [lapseGrant_eq, offerNotice_grant, if_neg fun c => other c.1, lapseRead_grant, if_neg other]
  split
  · exact Grant.follows_draining _
  · exact .refl

theorem lapseRead_held (s : State) (i : SlotIx) : (integrityRead i (lapseDrained s i)).held = s.held := by
  rw [integrityRead_frame, lapseDrained_frame]; rfl

/-- A lapse owes its notice only where the queue is full (R125). -/
theorem lapseGrant_full {s : State} {i : SlotIx} (full : (∃ j, (s.grant j).noticeOwed ≠ none) → 32 ≤ s.held) :
    (∃ j, ((lapseGrant s i).grant j).noticeOwed ≠ none) → 32 ≤ (lapseGrant s i).held := by
  let read := integrityRead i (lapseDrained s i)
  have places : s.held ≤ (lapseGrant s i).held := by
    rw [← lapseRead_held s i, lapseGrant_eq]
    unfold offerNotice
    split
    · exact le_rfl
    · exact (post_keepsLeases read _).places
  rintro ⟨j, owed⟩
  refine le_trans ?_ places
  rw [lapseGrant_eq, offerNotice_grant] at owed
  split at owed
  · next offered => rw [← lapseRead_held s i]; exact offered.2
  · refine full ⟨j, fun none => owed ?_⟩
    rw [lapseRead_grant]
    split
    · next same => rw [← same]; exact none
    · split <;> exact none

theorem LeasesSoundBut.lapse {i : SlotIx} {l : List SlotIx} {s : State} (h : LeasesSoundBut (i :: l) s) :
    LeasesSoundBut l (lapseGrant s i) where
  slots j hj := by
    by_cases own : j = i
    · subst own; exact lapseGrant_own (h.used j List.mem_cons_self)
    · exact (lapseGrant_others own).sound (h.slots j (by simp [own, hj]))
  used j hj := mt (lapseGrant_state_free s i j).mp (h.used j (List.mem_cons_of_mem i hj))
  full := lapseGrant_full h.full

theorem LeasesSoundBut.foldl_lapse {l : List SlotIx} {s : State} (h : LeasesSoundBut l s) : LeasesSound (l.foldl lapseGrant s) := by
  induction l generalizing s with
  | nil => exact leasesSoundBut_nil.mp h
  | cons i rest ih => exact ih h.lapse

/-- Every lease that a tick brings to 0 lapses within the tick (R121, R123). -/
theorem LeasesSound.leaseTick {s : State} (hs : LeasesSound s) : LeasesSound (leaseTick s) := by
  have staged : LeasesSound (tickStages s) := hs.countdown.foldl_lapse.keeps (timeoutRetires_keepsLeases _ _)
  have settled := staged.keeps (settle_keepsLeases _)
  unfold Machine.leaseTick
  generalize Machine.settle (tickStages s) = u at settled ⊢
  have ended : KeepsLeases u { u with clock := u.clock.tick } := .other rfl
  exact settled.keeps (ended.then_other (by simp))

/-- No lease stands at 0, so the row LAPSE finds nothing to do (R122, log entry 7). -/
theorem LeasesSound.lapse_eq {s : State} (hs : LeasesSound s) (i : SlotIx) : lapse i s = s := by
  unfold lapse
  refine if_neg fun due => ?_
  have := (hs.range i 0 due.2).1
  omega

/-! ## Every command -/

theorem LeasesSound.happening {f : State → State} {s t : State} (hs : LeasesSound s) (h : happening f s = .next t)
    (hf : ∀ u, LeasesSound u → LeasesSound (f u)) : LeasesSound t := by
  have quiet : LeasesSound s.quiet := hs.keeps (.other rfl)
  cases reset : s.inReset with
  | true => rw [happening_in_reset reset] at h; cases h; exact quiet
  | false => rw [happening_of_running reset] at h; cases h; exact hf _ quiet

theorem LeasesSound.happening_keeps {f : State → State} {s t : State} (hs : LeasesSound s)
    (h : Machine.happening f s = .next t) (hf : ∀ u, KeepsLeases u (f u)) : LeasesSound t :=
  hs.happening h fun u hu => hu.keeps (hf u)

theorem LeasesSound.take {wanted : Option CommandKind} {body : CommandRecord → State → Verdict × State} {s t : State}
    (hs : LeasesSound s) (h : Machine.happening (takeCommand wanted body) s = .next t)
    (hb : ∀ r u, KeepsLeases u (body r u).2) : LeasesSound t := hs.happening_keeps h fun _ => takeCommand_keepsLeases hb

theorem LeasesSound.exec {c : Instr} {s t : State} (hs : LeasesSound s) (h : exec c s = .next t) : LeasesSound t := by
  cases c with
  | powerOnReset => cases h; exact .of_free fun _ => rfl
  | hardwareReset => cases h; exact .of_free (grantAt_released_free s.grants)
  | softReset => exact hs.happening h fun u _ => softReset_leasesSound u
  | requestPresented a q => exact hs.happening_keeps h (presentRequest_keepsLeases a q)
  | accessTake => exact hs.happening_keeps h accessTake_keepsLeases
  | memoryCompletion k status data => exact hs.happening_keeps h (memoryCompletion_keepsLeases k status data)
  | freeing i => exact hs.happening_keeps h (freeing_keepsLeases i)
  | retireCompletion k => exact hs.happening_keeps h (retireCompletion_keepsLeases k)
  | barrierCompletion => exact hs.happening_keeps h completeBarrier_keepsLeases
  | leaseTick => exact hs.happening h fun _ hu => hu.leaseTick
  | lapse i => exact hs.happening h fun _ hu => by rwa [hu.lapse_eq i]
  | owedNoticePosted => exact hs.happening_keeps h owedNoticePosted_keepsLeases
  | drainTimeout k => exact hs.happening_keeps h (drainTimeout_keepsLeases k)
  | push v => exact hs.happening_keeps h pushCommand_keepsLeases
  | pop v => exact hs.happening h fun _ hu => hu.popResponse
  | resume => exact hs.happening_keeps h resumeAction_keepsLeases
  | discard => exact hs.happening_keeps h discardAction_keepsLeases
  | pushRefusedClear => exact hs.happening_keeps h fun _ => .other rfl
  | discardRemoval => exact hs.happening_keeps h discardRemoval_keepsLeases
  | errorClear v => exact hs.happening_keeps h fun _ => .other rfl
  | faultAck v => exact hs.happening_keeps h fun u => .of_inner (acknowledgeFault_inner v u)
  | faultSelect v => exact hs.happening_keeps h fun u => .of_inner (selectFault_inner v u)
  | intEnable v => exact hs.happening_keeps h fun _ => .other rfl
  | registerWrite reg v => exact hs.happening h fun _ hu => hu.hostWrite reg v
  | create => exact hs.take h createBody_keepsLeases
  | derive => exact hs.take h deriveBody_keepsLeases
  | modify => exact hs.take h modifyBody_keepsLeases
  | query => exact hs.take h queryBody_keepsLeases
  | revoke => exact hs.take h revokeBody_keepsLeases
  | revokeAgent => exact hs.take h revokeAgentBody_keepsLeases
  | purge => exact hs.take h purgeBody_keepsLeases
  | barrier => exact hs.take h barrierBody_keepsLeases
  | agentSet => exact hs.take h agentSetBody_keepsLeases
  | quarantine => exact hs.take h (moveAgent_keepsLeases _ _)
  | release => exact hs.take h (moveAgent_keepsLeases _ _)
  | excludeSet => exact hs.take h excludeSetBody_keepsLeases
  | freeze => exact hs.take h freezeBody_keepsLeases
  | configure => exact hs.take h configureBody_keepsLeases
  | unknownKindCode => exact hs.take h fun _ _ => .refl
  | statusRead => exact hs.happening_keeps h fun _ => judgedAfter_keepsLeases rfl
  | errorRead => exact hs.happening_keeps h fun _ => judgedAfter_keepsLeases rfl
  | agentRead b => exact hs.happening_keeps h fun u => judgedAfter_keepsLeases (judgeAgentRead_inner b u)
  | grantRead b => exact hs.happening_keeps h (grantRead_keepsLeases b)
  | hold b => exact hs.happening_keeps h fun u => judgedAfter_keepsLeases (judgeHold_inner _ _ b u)
  | unhold b => exact hs.happening_keeps h fun u => judgedAfter_keepsLeases (judgeHold_inner _ _ b u)
  | badFrame b =>
    refine hs.happening_keeps h fun u => ?_
    split
    · exact judgedAfter_keepsLeases rfl
    · exact .refl
  | resetRelease => cases h; split <;> exact hs.keeps (.other rfl)
  | csAsserted => cases h; split <;> exact hs.keeps (.other rfl)
  | csDeasserted => cases h; exact hs.keeps (.other rfl)
  | fullByteReceived b => exact hs.happening_keeps h (receiveByte_keepsLeases b)

/-- Settles O58: each command keeps the leases and frees no place, but for resets, pops and ticks, which are seen through
on their own. -/
theorem leasesAndNoticesStaySound : Obligations.LeasesAndNoticesStaySound := fun _ _ _ hs h => hs.exec h

end Sys2Proof.Machine
end

section
/-! FREEZE and CONFIGURE (R120, R151, R152, R154). -/

namespace Sys2Proof.Machine

/-! ## The kind-specific word (R181) -/

theorem extractLsb'_bne_zero (x : Word) (p n : Nat) : (x.extractLsb' p n != 0) = decide (x.toNat / 2 ^ p % 2 ^ n ≠ 0) := by
  have zero : x.extractLsb' p n = 0 ↔ x.toNat / 2 ^ p % 2 ^ n = 0 := by
    rw [BitVec.toNat_eq, BitVec.extractLsb'_toNat, Nat.shiftRight_eq_div_pow]
    exact Iff.of_eq (congrArg _ (Nat.zero_mod _))
  rw [bne, beq_eq_decide, ← decide_not]
  exact decide_eq_decide.mpr (not_congr zero)

theorem CommandRecord.level_eq (r : CommandRecord) : r.level = r.c5.toNat % 4 := by simp [CommandRecord.level]

/-- Check 1 of FREEZE: a level above 2, or an unnamed bit, makes a word above 2 (R151). -/
theorem CommandRecord.freezeBad_eq (r : CommandRecord) : r.freezeBad = decide (2 < r.c5.toNat) := by
  have := r.c5.isLt
  unfold CommandRecord.freezeBad
  rw [extractLsb'_bne_zero, CommandRecord.level_eq, ← Bool.decide_or]
  exact decide_eq_decide.mpr (by omega)

/-- A word that passes check 1 of FREEZE is the level. -/
theorem CommandRecord.level_of_good {r : CommandRecord} (h : r.freezeBad = false) : r.level = r.c5.toNat := by
  rw [CommandRecord.freezeBad_eq, decide_eq_false_iff_not] at h
  rw [CommandRecord.level_eq]
  omega

/-- Check 1 of CONFIGURE (R154). -/
theorem CommandRecord.configureBad_eq (r : CommandRecord) :
    r.configureBad = decide (3 < r.c5.toNat % 8 ∨ r.c5.toNat / 2 ^ 6 % 1024 ≠ 0) := by
  have period : r.periodBits = r.c5.toNat % 8 := by simp [CommandRecord.periodBits]
  unfold CommandRecord.configureBad
  rw [extractLsb'_bne_zero, period, Bool.decide_or]
  rfl

theorem CommandRecord.period_eq (r : CommandRecord) : r.period = Fin.ofNat 4 r.c5.toNat := by
  apply Fin.ext
  simp [CommandRecord.period, Fin.ofNat]

theorem CommandRecord.timeout_eq (r : CommandRecord) : r.timeout = r.c5.toNat / 2 ^ 16 := by
  have := r.c5.isLt
  simp only [CommandRecord.timeout, BitVec.extractLsb'_toNat, Nat.shiftRight_eq_div_pow]
  omega

/-! ## Answers by ordered checks -/

/-- How a command that writes a setting answers by its first failing check: refused with its status, or done (R80). -/
def settingAnswer (write : State → State) (s : State) : Option Status → Verdict × State
  | some st => refuse st s
  | none => done (write s)

theorem freezeBody_eq (r : CommandRecord) (s : State) : freezeBody r s =
    settingAnswer (fun u => { u with freezeLevel := Fin.ofNat 3 r.c5.toNat }) s (firstFailing (freezeChecks s r)) := by
  unfold freezeBody
  simp only [freezeChecks, firstFailing_answer (settingAnswer _ s), ← CommandRecord.freezeBad_eq, decide_eq_true_eq]
  refine ite_congr rfl (fun _ => rfl) fun good => ?_
  rw [CommandRecord.level_of_good (by simpa using good)]
  rfl

/-- The values that CONFIGURE writes, as the word carries them (R153, R181). -/
theorem configureBody_eq (r : CommandRecord) (s : State) : configureBody r s = settingAnswer
    (fun u => { u with
      clock := { u.clock with pending := some (Fin.ofNat 4 r.c5.toNat) }
      config := { drainTimeout := r.c5.toNat / 2 ^ 16, integrity := severityOfBit (r.c5.getLsbD 3)
                  stray := severityOfBit (r.c5.getLsbD 4), abandon := severityOfBit (r.c5.getLsbD 5) } })
    s (firstFailing (configureChecks s r)) := by
  unfold configureBody State.protects CommandRecord.deviceConfig
  rw [CommandRecord.period_eq, CommandRecord.timeout_eq]
  simp only [configureChecks, firstFailing_answer (settingAnswer _ s), ← CommandRecord.configureBad_eq, decide_eq_true_eq]
  exact if_congr Iff.rfl rfl (if_congr (not_congr Fin.val_eq_zero_iff) rfl rfl)

/-- A due take of a command that writes a setting, where the write and the removal of the head record do not meet. -/
theorem take_of_settingAnswer {s : State} {r : CommandRecord} {rest : List CommandRecord} {k : CommandKind}
    {body : CommandRecord → State → Verdict × State} {write : State → State} {failing : Option Status}
    (ready : TakeReady s r rest) (passes : Passes r k)
    (answers : body r (s.quiet.takeHead rest) = settingAnswer write (s.quiet.takeHead rest) failing)
    (apart : write (s.quiet.takeHead rest) = (write s.quiet).takeHead rest) (runs : (write s.quiet).runState = s.runState) :
    (∀ st, failing = some st → happening (takeCommand (some k) body) s = .next (endedTake s.quiet rest r st none)) ∧
    (failing = none → happening (takeCommand (some k) body) s =
      .next (completedTake (write s.quiet) rest (completionOf r .ok none .absent))) := by
  rw [take_of_passes ready passes, answers]
  constructor
  · rintro st rfl
    exact congrArg _ (endTake_refused st none rest ready.running)
  · rintro rfl
    simp only [settingAnswer, done, apart]
    exact congrArg _ (endTake_running .ok none .absent rest (runs.trans ready.running))

/-- Settles O40. -/
theorem freezeAndConfigureWriteTheirValues : Obligations.FreezeAndConfigureWriteTheirValues := by
  intro s r rest ready ok severity
  exact ⟨fun passes => take_of_settingAnswer ready passes (freezeBody_eq r _) rfl rfl,
    fun passes => take_of_settingAnswer ready passes (configureBody_eq r _) rfl rfl⟩

end Sys2Proof.Machine
end

section
/-! Agents: AGENT_SET, QUARANTINE and RELEASE (R135–R137), and HOLD and UNHOLD with the bad frames (R169, R174); the host's
writes to ERROR_CLEAR, FAULT_ACK, FAULT_SELECT and INT_ENABLE (R143, R161, R165, R178). -/

namespace Sys2Proof.Machine

/-! ## The agent record of a command (R136, R181) -/

/-- Check 1 of AGENT_SET: a state, quota or limit outside R136's table, or a bit above the four values (R181). -/
theorem CommandRecord.agentSetBad_eq (r : CommandRecord) : r.agentSetBad =
    decide (2 ≤ r.c5.toNat % 4 ∨ 1024 < r.c5.toNat / 4 % 2048 ∨ r.c5.toNat / 2 ^ 13 % 16 = 0
      ∨ 8 < r.c5.toNat / 2 ^ 13 % 16 ∨ r.c5.toNat / 2 ^ 18 ≠ 0) := by
  have unnamed : r.c5.toNat / 2 ^ 18 % 2 ^ 14 = r.c5.toNat / 2 ^ 18 := by have := r.c5.isLt; omega
  unfold CommandRecord.agentSetBad CommandRecord.agentStateCode CommandRecord.agentQuota CommandRecord.agentLimit
  rw [extractLsb'_bne_zero, unnamed]
  simp only [BitVec.extractLsb'_toNat, Nat.shiftRight_eq_div_pow, Bool.decide_or, beq_eq_decide, Bool.or_assoc, pow_zero,
    Nat.div_one, Nat.reducePow]

/-- The four values that AGENT_SET writes, as the word carries them, and the hold kept (R136, R181). -/
theorem CommandRecord.agentRecord_eq (r : CommandRecord) (old : Agent) : r.agentRecord old =
    { state := if r.c5.toNat % 4 = 0 then .disabled else .active, hold := old.hold
      quota := r.c5.toNat / 4 % 2048, limit := r.c5.toNat / 2 ^ 13 % 16
      autoQuarantine := decide (r.c5.toNat / 2 ^ 17 % 2 = 1) } := by
  have auto : r.c5.getLsbD 17 = decide (r.c5.toNat / 2 ^ 17 % 2 = 1) := Nat.testBit_eq_decide_div_mod_eq
  unfold CommandRecord.agentRecord CommandRecord.agentStateCode CommandRecord.agentQuota CommandRecord.agentLimit
    CommandRecord.agentAuto
  rw [auto]
  simp only [BitVec.extractLsb'_toNat, Nat.shiftRight_eq_div_pow, pow_zero, Nat.div_one, Nat.reducePow]

/-! ## The agent commands as settings -/

theorem agentSetBody_eq (r : CommandRecord) (s : State) : agentSetBody r s =
    settingAnswer (fun u => u.setAgent r.agent (r.agentRecord u.agents[r.agent])) s (firstFailing (agentSetChecks s r)) := by
  unfold agentSetBody State.protects
  simp only [agentSetChecks, firstFailing_answer (settingAnswer _ s), ← CommandRecord.agentSetBad_eq, decide_eq_true_eq]
  exact if_congr Iff.rfl rfl (if_congr (not_congr Fin.val_eq_zero_iff) rfl rfl)

theorem moveAgent_eq (source target : AgentState) (r : CommandRecord) (s : State) : moveAgent source target r s =
    settingAnswer (fun u => u.setAgent r.agent { u.agents[r.agent] with state := target }) s
      (if s.agents[r.agent].state = source then none else some .notLive) := by
  unfold moveAgent
  split <;> rfl

/-- A due QUARANTINE or RELEASE: from its one state the agent moves, and from any other it does not (R137). -/
theorem take_moveAgent {s : State} {r : CommandRecord} {rest : List CommandRecord} {k : CommandKind}
    (source target : AgentState) (ready : TakeReady s r rest) (passes : Passes r k) :
    happening (takeCommand (some k) (moveAgent source target)) s = .next
      (if s.agents[r.agent].state = source
        then completedTake { s.quiet with agents := s.agents.set r.agent { s.agents[r.agent] with state := target } } rest
          (completionOf r .ok none .absent)
        else completedTake s.quiet rest (completionOf r .notLive none .absent)) := by
  obtain ⟨refused, moved⟩ := take_of_settingAnswer ready passes (moveAgent_eq source target r _) rfl rfl
  by_cases h : s.agents[r.agent].state = source
  · rw [if_pos h]
    exact moved (if_pos h)
  · rw [if_neg h]
    exact refused .notLive (if_neg h)

/-- Settles O38: each of the three commands writes one agent's record as a setting. -/
theorem agentCommandsWriteTheRecord : Obligations.AgentCommandsWriteTheRecord := by
  intro s r rest ready old ok notLive
  refine ⟨fun passes => ?_, take_moveAgent .active .quarantined ready, take_moveAgent .quarantined .active ready⟩
  rw [← CommandRecord.agentRecord_eq]
  exact take_of_settingAnswer ready passes (agentSetBody_eq r _) rfl rfl

/-! ## The host's register actions (R143, R161, R165, R178) -/

/-- A number that is an index names it. -/
theorem dite_lt_eq_some {n k : Nat} {i : Fin n} (h : k = i.val) :
    (if h : k < n then some (⟨k, h⟩ : Fin n) else none) = some i := by
  subst h
  exact dif_pos i.isLt

theorem agentOfWord_some {v : Word} {a : AgentIx} (h : v.toNat = a.val) : agentOfWord v = some a := dite_lt_eq_some h

theorem agentOfWord_none {v : Word} (h : 16 ≤ v.toNat) : agentOfWord v = none := dif_neg (not_lt.mpr h)

theorem acknowledgeFault_of_agent {v : Word} {a : AgentIx} (h : v.toNat = a.val) (s : State) :
    acknowledgeFault v s = s.setFaultSlot a none := by
  unfold acknowledgeFault
  rw [agentOfWord_some h]

theorem acknowledgeFault_of_no_agent {v : Word} (h : 16 ≤ v.toNat) (s : State) : acknowledgeFault v s = s := by
  unfold acknowledgeFault
  rw [agentOfWord_none h]

theorem selectFault_of_agent {v : Word} {a : AgentIx} (h : v.toNat = a.val) (s : State) :
    selectFault v s = { s with faultSelect := a } := by
  unfold selectFault
  rw [agentOfWord_some h]

theorem selectFault_of_no_agent {v : Word} (h : 16 ≤ v.toNat) (s : State) : selectFault v s = s := by
  unfold selectFault
  rw [agentOfWord_none h]

/-- Settles O24: by whether the value names an agent. -/
theorem hostRegisterActions : Obligations.HostRegisterActions := by
  intro s v running
  have acknowledge : exec (.faultAck v) s = .next (acknowledgeFault v s.quiet) := happening_of_running running
  have select : exec (.faultSelect v) s = .next (selectFault v s.quiet) := happening_of_running running
  rw [acknowledge, select]
  exact ⟨happening_of_running running, happening_of_running running,
    fun a named => ⟨congrArg _ (acknowledgeFault_of_agent named _), congrArg _ (selectFault_of_agent named _)⟩,
    fun above => ⟨congrArg _ (acknowledgeFault_of_no_agent above _), congrArg _ (selectFault_of_no_agent above _)⟩⟩

/-! ## Frames judged (R168, R169) -/

/-- A completing byte is judged, out of reset, where the bytes before it are those of its transaction. -/
theorem judgedAfter_happens {s : State} {received : List Byte} {judge : State → State} (running : s.inReset = false)
    (frame : s.service.frame = .command) (arrived : s.service.received = received) :
    happening (judgedAfter received judge) s = .next (judge s.quiet) := by
  rw [happening_of_running running]
  exact congrArg _ (if_pos ⟨frame, arrived⟩)

theorem namesNoTransaction_iff (b : Byte) : namesNoTransaction b = true ↔ b.toNat = 0 ∨ 7 ≤ b.toNat := by
  simp only [namesNoTransaction, Bool.or_eq_true, beq_iff_eq, decide_eq_true_eq, Nat.succ_le_iff]

theorem agentOfByte_some {b : Byte} {a : AgentIx} (h : b.toNat = a.val) : agentOfByte b = some a := dite_lt_eq_some h

theorem agentOfByte_none {b : Byte} (h : 16 ≤ b.toNat) : agentOfByte b = none := dif_neg (not_lt.mpr h)

/-! ## HOLD and UNHOLD (R174, R183) -/

/-- The byte of HOLD and UNHOLD: state and hold (R183). -/
theorem holdByte_eq (r : Agent) : holdByte r = BitVec.ofNat 8 (agentCode r.state + 4 * r.hold.toNat) := by
  have state : agentCode r.state < 4 := by cases r.state <;> decide
  have hold := Bool.toNat_lt r.hold
  simp only [holdByte, packByte, packNat]
  congr 1
  omega

theorem judgeHold_of_agent (opcode : Byte) (value : Bool) {b : Byte} {a : AgentIx} (h : b.toNat = a.val) (s : State) :
    judgeHold opcode value b s = answerWith [opcode, b] resultDone
      [BitVec.ofNat 8 (agentCode s.agents[a].state + 4 * s.agents[a].hold.toNat)]
      (s.setAgent a { s.agents[a] with hold := value }) := by
  unfold judgeHold
  rw [agentOfByte_some h, ← holdByte_eq]

theorem judgeHold_of_no_agent (opcode : Byte) (value : Bool) {b : Byte} (h : 16 ≤ b.toNat) (s : State) :
    judgeHold opcode value b s = answerWith [opcode, b] resultBadFrame [] s := by
  unfold judgeHold
  rw [agentOfByte_none h]

/-- Settles O43: by whether the agent byte names an agent, and the opcode a transaction. -/
theorem holdUnholdAndBadFrames : Obligations.HoldUnholdAndBadFrames := by
  intro s b running frame answered
  have hold (arrived : s.service.received = [0x05]) : exec (.hold b) s = .next (judgeHold 0x05 true b s.quiet) :=
    judgedAfter_happens running frame arrived
  have unhold (arrived : s.service.received = [0x06]) : exec (.unhold b) s = .next (judgeHold 0x06 false b s.quiet) :=
    judgedAfter_happens running frame arrived
  refine ⟨fun a named => ⟨fun arrived => ?_, fun arrived => ?_⟩,
    fun above => ⟨fun arrived => ?_, fun arrived => ?_⟩, fun arrived unnamed => ?_⟩
  · exact (hold arrived).trans (congrArg _ (judgeHold_of_agent 0x05 true named s.quiet))
  · exact (unhold arrived).trans (congrArg _ (judgeHold_of_agent 0x06 false named s.quiet))
  · exact (hold arrived).trans (congrArg _ (judgeHold_of_no_agent 0x05 true above s.quiet))
  · exact (unhold arrived).trans (congrArg _ (judgeHold_of_no_agent 0x06 false above s.quiet))
  · simp only [exec, execBadFrame, (namesNoTransaction_iff b).mpr unnamed, if_true]
    exact judgedAfter_happens running frame arrived

end Sys2Proof.Machine
end

section
/-! The windows (R3, R146, R147): every command keeps them, whatever the free list holds. -/

namespace Sys2Proof.Machine

/-! ## One window -/

/-- A record with the same window and rights is as sound. -/
theorem WindowIn.of_same {ranges : Vector ExclusionRange 4} {g h : Grant} (hg : WindowIn ranges g) (base : h.base = g.base)
    (length : h.length = g.length) (rights : h.rights = g.rights) : WindowIn ranges h :=
  hg.within (length ▸ hg.length.1) (congrArg _ base.symm).le (by rw [base, length]) (rights ▸ hg.rights)

/-- The window that a DERIVE is granted lies inside its parent's (R85, R88). -/
theorem WindowIn.derived {ranges : Vector ExclusionRange 4} {g h : Grant} {r : CommandRecord} (hg : WindowIn ranges g)
    (good : GoodOperands r) (grants : GrantsDerive g r) (base : h.base = g.base + r.base) (length : h.length = r.length)
    (rights : h.rights = r.rights) : WindowIn ranges h := by
  have start : h.base.toNat = g.base.toNat + r.base.toNat := base ▸ CommandRecord.base_add good grants.length hg.space
  have inside := grants.length
  exact hg.within (length ▸ good.low) (by omega) (by omega) (rights ▸ good.rights)

/-! ## Allocation -/

theorem linkChild_children (parent : Option SlotIx) (i : SlotIx) (s : State) (j : SlotIx) :
    ∃ c, (linkChild parent i s).grant j = { s.grant j with children := c } := by
  cases parent with
  | none => exact ⟨_, rfl⟩
  | some p =>
    by_cases h : j = p
    · subst h
      exact ⟨_, State.grant_setGrant_same s j _⟩
    · exact ⟨_, State.grant_setGrant_ne s _ h⟩

/-- An allocation keeps the windows sound where the slot taken is given a sound one, also where that slot is named as its own
parent. -/
theorem WindowsSound.windowIn_allocate {s : State} (hs : WindowsSound s) {r : CommandRecord} {k : SlotIx}
    {rest : List SlotIx} {base : BitVec 32} {parent : Option SlotIx} {d : Nat}
    (new : WindowIn s.ranges (allocatedRecord r (s.grant k).generation base parent d)) (i : SlotIx)
    (hi : ((allocate r k rest base parent d s).grant i).state ≠ .free) :
    WindowIn s.ranges ((allocate r k rest base parent d s).grant i) := by
  obtain ⟨c, linked⟩ := linkChild_children parent k
    ({ s with freeList := rest }.setGrant k (allocatedRecord r (s.grant k).generation base parent d)) i
  rw [allocate_state] at hi
  rw [allocate, linked, State.grant_setGrant]
  split at hi
  · rw [if_pos ‹_›]
    exact new.of_same rfl rfl rfl
  · rw [if_neg ‹_›]
    exact (hs.windowIn hi).of_same rfl rfl rfl

/-! ## What one change leaves of the windows and the ranges -/

/-- After one change every non-FREE window is one from before, lies inside one from before, or was checked against the
ranges. -/
theorem WindowsSound.windowIn_change {s t : State} (hs : WindowsSound s) (h : Change s t) (i : SlotIx)
    (hi : (t.grant i).state ≠ .free) : WindowIn s.ranges (t.grant i) := by
  have same (hg : t.grants = s.grants) : WindowIn s.ranges (t.grant i) := by
    rw [State.grant_congr hg] at hi ⊢
    exact hs.windowIn hi
  cases h with
  | bookkeeping wf shape free others =>
    obtain ⟨state, -, -, base, length, rights, -⟩ := Grant.shape_eq_iff.mp (shape i)
    exact (hs.windowIn (state ▸ hi)).of_same base length rights
  | @drain which line =>
    have before := hs.windowIn (mt (drainSlots_state_free which s i).mpr hi)
    rw [drainSlots_grant]
    split
    · exact before.of_same rfl rfl rfl
    · exact before
  | @free k eligible =>
    rw [freeSlot_state] at hi
    obtain ⟨other, used⟩ : i ≠ k ∧ (s.grant i).state ≠ .free := by simpa using hi
    obtain ⟨c, hc⟩ := freeSlot_children k s other
    rw [hc]
    exact (hs.windowIn used).of_same rfl rfl rfl
  | create good head space outside =>
    exact hs.windowIn_allocate ⟨⟨good.low, good.high⟩, space, good.rights, State.not_excluded outside⟩ i hi
  | @derive r k p rest good head grants =>
    have parent : WindowIn s.ranges (s.grant p) := hs.windowIn (by simp [grants.live])
    exact hs.windowIn_allocate (parent.derived good grants rfl rfl rfl) i hi
  | @modify r k accepts =>
    rw [State.grant_setGrant] at hi ⊢
    split at hi
    · rw [if_pos ‹_›]
      exact accepts.applied_window (hs.windowIn accepts.state_ne_free)
    · rw [if_neg ‹_›]
      exact hs.windowIn hi
  | release idle wf free others => exact absurd (by rw [free i]; rfl) hi
  | issue => exact same rfl
  | endEntries entry others => exact same (congrArg Blocks.grants others)
  | agents limits others => exact same (congrArg Blocks.grants others)
  | ranges fits others => exact same (congrArg Blocks.grants others)

/-- A change keeps the ranges, or leaves the table and writes ranges that are kept or fit it. -/
theorem Change.ranges_fit {s t : State} (h : Change s t) : t.ranges = s.ranges ∨
    t.grants = s.grants ∧ ∀ x : RangeIx, t.ranges[x] = s.ranges[x] ∨ s.RangeFits t.ranges[x] := by
  cases h with
  | ranges fits others => exact .inr ⟨congrArg Blocks.grants others, fits⟩
  | free => exact .inl (by rw [freeSlot_frame])
  | create | derive => exact .inl (by rw [allocate_frame])
  | drain | modify | issue => exact .inl rfl
  | bookkeeping _ _ _ others | release _ _ _ others | endEntries _ others | agents _ others =>
    exact .inl (congrArg Blocks.ranges others)

/-! ## The invariant -/

theorem WindowsSound.rangeFits {s : State} (hs : WindowsSound s) (x : RangeIx) : s.RangeFits s.ranges[x] := by
  cases h : s.ranges[x].enabled with
  | false => exact .inl ⟨h, hs.disabled x h⟩
  | true =>
    obtain ⟨low, high, space⟩ := hs.enabled x h
    exact .inr ⟨h, low, high, space, fun i hi => hs.excluded i hi x h⟩

/-- Ranges that fit the table keep the windows sound. -/
theorem WindowsSound.of_ranges {s t : State} (hs : WindowsSound s) (hg : t.grants = s.grants)
    (fits : ∀ x : RangeIx, s.RangeFits t.ranges[x]) : WindowsSound t := by
  have grant : t.grant = s.grant := State.grant_congr hg
  have enabled (x : RangeIx) (hx : t.ranges[x].enabled = true) :=
    (fits x).resolve_left fun ⟨off, _⟩ => Bool.false_ne_true (off.symm.trans hx)
  have disabled (x : RangeIx) (hx : t.ranges[x].enabled = false) :=
    (fits x).resolve_right fun ⟨on, _⟩ => Bool.false_ne_true (hx.symm.trans on)
  exact
    { length := grant ▸ hs.length
      space := grant ▸ hs.space
      rights := grant ▸ hs.rights
      enabled := fun x hx =>
        have ⟨_, low, high, space, _⟩ := enabled x hx
        ⟨low, high, space⟩
      disabled := fun x hx => (disabled x hx).2
      excluded := fun i hi x hx =>
        have ⟨_, _, _, _, apart⟩ := enabled x hx
        grant ▸ apart i (grant ▸ hi) }

/-- Each change keeps the windows sound, without a sound free list: `WindowsSound.change` asks for one, so that the slot a
DERIVE takes is not its own parent, but the window it is granted lies inside the parent's old one in that case too. -/
theorem WindowsSound.of_change {s t : State} (hs : WindowsSound s) (h : Change s t) : WindowsSound t := by
  rcases h.ranges_fit with kept | ⟨table, written⟩
  · exact hs.of_grants kept (hs.windowIn_change h)
  · refine hs.of_ranges table fun x => ?_
    rcases written x with same | fits
    · exact same ▸ hs.rangeFits x
    · exact fits

/-- Settles O55: each change of a command keeps the windows. -/
theorem windowsStayOutsideExclusionRanges : Obligations.WindowsStayOutsideExclusionRanges :=
  keptByEveryCommand_of_change fun _ _ change sound => sound.of_change change

end Sys2Proof.Machine
end

section
/-! EXCLUDE_SET (R148, R149, R152, R181). -/

namespace Sys2Proof.Machine

/-! ## The kind-specific word (R181) -/

/-- Check 1 of EXCLUDE_SET: a range code above 3, an unnamed bit, a length out of range where the range is enabled, or any
granule where it is disabled (R148). -/
theorem CommandRecord.excludeSetBad_eq (r : CommandRecord) : r.excludeSetBad =
    (decide (3 < r.c5.toNat % 8 ∨ r.c5.toNat / 8 % 32 ≠ 0 ∨ r.c5.toNat / 2 ^ 9 ≠ 0)
      || (r.c5.getLsbD 8 && decide (r.c3.toNat = 0 ∨ 2 ^ 24 < r.c3.toNat))
      || (!r.c5.getLsbD 8 && decide (r.c2 ≠ 0 ∨ r.c3 ≠ 0))) := by
  have code : r.rangeCode = r.c5.toNat % 8 := by simp [CommandRecord.rangeCode]
  have unnamed : r.c5.toNat / 2 ^ 9 % 2 ^ 23 = r.c5.toNat / 2 ^ 9 := by have := r.c5.isLt; omega
  have length : badLength r.length = decide (r.c3.toNat = 0 ∨ 2 ^ 24 < r.c3.toNat) := by
    rw [Bool.decide_or, ← beq_eq_decide]
    rfl
  have granules : (r.c2 != 0 || r.c3 != 0) = decide (r.c2 ≠ 0 ∨ r.c3 ≠ 0) := by
    simp only [bne, beq_eq_decide, Bool.decide_or, decide_not]
  unfold CommandRecord.excludeSetBad CommandRecord.enable
  rw [extractLsb'_bne_zero, extractLsb'_bne_zero, unnamed, code, length, granules]
  cases r.c5.getLsbD 8 <;> simp only [Bool.decide_or, Bool.or_assoc, Bool.false_and, Bool.true_and, Bool.not_false,
    Bool.not_true, if_true, Bool.false_eq_true, if_false, Nat.reducePow, Bool.or_false]

theorem CommandRecord.range_eq (r : CommandRecord) : r.range = Fin.ofNat 4 r.c5.toNat := by
  apply Fin.ext
  simp [CommandRecord.range, Fin.ofNat]

/-! ## The windows that overlap (R149) -/

/-- A non-FREE grant's window and some granules overlap. -/
def Grant.Overlaps (g : Grant) (base length : Nat) : Prop :=
  g.state ≠ .free ∧ g.base.toNat < base + length ∧ base < g.base.toNat + g.length

/-- Check 4 tests a slot for an overlap. -/
theorem overlaps_iff {s : State} {base length : Nat} {i : SlotIx} : (s.grant i).Overlaps base length ↔
    i ∈ s.nonFree ∧ windowsOverlap (s.grant i).base.toNat (s.grant i).length base length = true := by
  simp [Grant.Overlaps, windowsOverlap]

/-- Check 4 finds nothing where no window overlaps. -/
theorem State.overlapping_eq_none {s : State} {base length : Nat} (apart : ∀ i, ¬ (s.grant i).Overlaps base length) :
    s.overlapping base length = none :=
  List.find?_eq_none.mpr fun i used found => apart i (overlaps_iff.mpr ⟨used, found⟩)

/-- Check 4 finds the lowest slot whose window overlaps. -/
theorem State.overlapping_eq_some {s : State} (wf : s.grants.wf = true) {base length : Nat} {i : SlotIx}
    (overlaps : (s.grant i).Overlaps base length) (lowest : ∀ j, j < i → ¬ (s.grant j).Overlaps base length) :
    s.overlapping base length = some i := by
  obtain ⟨used, found⟩ := overlaps_iff.mp overlaps
  refine (find?_pairwise (State.nonFree_pairwise wf)).mpr ⟨used, found, fun j used below => ?_⟩
  exact Bool.eq_false_iff.mpr fun found => lowest j below (overlaps_iff.mpr ⟨used, found⟩)

/-- Integrity comparisons move no window. -/
theorem Compared.overlaps_iff {s u : State} (h : Compared s u) {base length : Nat} (i : SlotIx) :
    (u.grant i).Overlaps base length ↔ (s.grant i).Overlaps base length := by
  rw [h.shape i]
  rfl

/-- A scan writes no range. -/
theorem integrityScan_ranges (s : State) : (integrityScan s).ranges = s.ranges := by
  have read (i : SlotIx) (s : State) : (integrityRead i s).ranges = s.ranges := by rw [integrityRead_frame]
  unfold integrityScan
  generalize s.nonFree = l
  induction l generalizing s with
  | nil => rfl
  | cons i rest ih => exact (ih _).trans (read i s)

/-! ## The command -/

/-- How EXCLUDE_SET answers by its first failing check, of the first three (R148, R149). -/
def excludeSetAnswer (r : CommandRecord) (s : State) : Option Status → Verdict × State
  | some st => refuse st s
  | none =>
    if r.enable then enableRange r (integrityScan s)
    else done (s.setRange r.range { enabled := false, base := 0, length := 0 })

theorem excludeSetBody_eq (r : CommandRecord) (s : State) :
    excludeSetBody r s = excludeSetAnswer r s (firstFailing (excludeSetChecks s r)) := by
  unfold excludeSetBody State.protects
  simp only [excludeSetChecks, firstFailing_answer (excludeSetAnswer r s), ← CommandRecord.excludeSetBad_eq,
    decide_eq_true_eq]
  refine if_congr Iff.rfl rfl (if_congr (not_congr Fin.val_eq_zero_iff) rfl ?_)
  rw [show r.c5.getLsbD 8 = r.enable from rfl]
  cases enable : r.enable with
  | false => simp only [excludeSetAnswer, enable, Bool.false_and, Bool.false_eq_true, if_false, firstFailing_nil]
  | true =>
    simp only [excludeSetAnswer, enable, if_true, Bool.true_and, decide_eq_true_eq]
    rfl

theorem enableRange_of_apart {r : CommandRecord} {s : State} (apart : ∀ i, ¬ (s.grant i).Overlaps r.base.toNat r.length) :
    enableRange r s = done (s.setRange r.range { enabled := true, base := r.base, length := r.length }) := by
  unfold enableRange
  rw [State.overlapping_eq_none apart]

theorem enableRange_of_overlaps {r : CommandRecord} {s : State} (wf : s.grants.wf = true) {i : SlotIx}
    (overlaps : (s.grant i).Overlaps r.base.toNat r.length)
    (lowest : ∀ j, j < i → ¬ (s.grant j).Overlaps r.base.toNat r.length) :
    enableRange r s = (.completes .conflict none (.conflicting (mkHandle i (s.grant i).generation)), s) := by
  unfold enableRange
  rw [State.overlapping_eq_some wf overlaps lowest]

/-- A due EXCLUDE_SET ends as its answer lays down. -/
theorem exec_excludeSet_of_passes {s : State} {r : CommandRecord} {rest : List CommandRecord} (ready : TakeReady s r rest)
    (passes : Passes r .excludeSet) {failing : Option Status} (checked : firstFailing (excludeSetChecks s r) = failing)
    {v : Verdict} {t : State} (answer : excludeSetAnswer r (s.quiet.takeHead rest) failing = (v, t)) :
    exec .excludeSet s = .next (endTake r v t) := by
  have body : excludeSetBody r (s.quiet.takeHead rest) = (v, t) := by
    rw [excludeSetBody_eq, ← answer, ← checked]
    rfl
  exact (take_of_passes ready passes excludeSetBody).trans (by rw [body])

/-- Settles O39: by the first failing check, the enable flag, and what the scanned table holds. -/
theorem excludeSetWritesTheRange : Obligations.ExcludeSetWritesTheRange := by
  intro s r rest ready passes wf
  let x : RangeIx := Fin.ofNat 4 r.c5.toNat
  let u := integrityScan s.quiet
  have read : Compared s u := (Compared.quiet s).scan
  have scanned (enable : r.enable = true) :
      excludeSetAnswer r (s.quiet.takeHead rest) none = enableRange r (u.takeHead rest) :=
    (if_pos enable).trans (congrArg _ (integrityScan_takeHead s.quiet rest))
  refine ⟨fun st failing => ?_, fun good => ⟨fun disable => ?_, fun enable apart => ?_,
    fun enable i overlap lowest => ?_⟩⟩
  · rw [exec_excludeSet_of_passes ready passes failing rfl]
    exact congrArg _ (endTake_refused st none rest ready.running)
  · rw [exec_excludeSet_of_passes ready passes good (if_neg (Bool.eq_false_iff.mp disable)), r.range_eq]
    exact congrArg _ (endTake_running .ok none .absent rest (u := s.quiet.setRange x ⟨false, 0, 0⟩) ready.running)
  · have written := enableRange_of_apart (s := u.takeHead rest) fun i => mt (read.overlaps_iff i).mp (apart i)
    have kept : u.ranges = s.ranges := integrityScan_ranges s.quiet
    rw [exec_excludeSet_of_passes ready passes good ((scanned enable).trans written), r.range_eq, ← kept]
    exact congrArg _ (endTake_completes r .ok none .absent (u.setRange x ⟨true, r.c2, r.c3.toNat⟩) rest)
  · have conflict := enableRange_of_overlaps (s := u.takeHead rest) (read.wf wf) ((read.overlaps_iff i).mpr overlap)
      fun j below => mt (read.overlaps_iff j).mp (lowest j below)
    rw [exec_excludeSet_of_passes ready passes good ((scanned enable).trans conflict)]
    have named : (u.grant i).generation = (s.grant i).generation := by rw [read.shape i]
    rw [← named]
    exact congrArg _ (endTake_completes r .conflict none _ u rest)

end Sys2Proof.Machine
end

section
/-! The interrupt line and INT_CAUSE (R164, R165, R167, R179). -/

namespace Sys2Proof.Machine

/-! ## The causes and their bits (R164, R179) -/

theorem Cause.mem_all (c : Cause) : c ∈ Cause.all := by cases c <;> decide

theorem Cause.bit_lt (c : Cause) : c.bit < 6 := by cases c <;> decide

/-- The causes are listed in the order of their bits. -/
theorem Cause.all_getElem?_eq_some {n : Nat} {c : Cause} : Cause.all[n]? = some c ↔ c.bit = n := by
  have listed (c : Cause) : Cause.all[c.bit]? = some c := by cases c <;> rfl
  have distinct : Cause.all.Nodup := by decide
  constructor
  · intro found
    exact (List.getElem?_inj c.bit_lt distinct).mp ((listed c).trans found.symm)
  · rintro rfl
    exact listed c

theorem causePresent_response (s : State) : causePresent s .response = decide (s.responseQueue ≠ []) := by
  unfold causePresent
  cases s.responseQueue <;> rfl

theorem causePresent_fault (s : State) : causePresent s .fault = decide (∃ a : AgentIx, s.faultSlots[a] ≠ none) := by
  unfold causePresent
  rw [Bool.eq_iff_iff, vector_any, decide_eq_true_iff]
  exact exists_congr fun a => Option.isSome_iff_ne_none

theorem present_getElem?_eq_some {s : State} {n : Nat} {b : Bool} :
    (Cause.all.map (causePresent s))[n]? = some b ↔ ∃ c : Cause, c.bit = n ∧ causePresent s c = b := by
  simp only [List.getElem?_map, Option.map_eq_some_iff, Cause.all_getElem?_eq_some]

/-! ## INT# (R165, R167) -/

theorem intAsserted_iff (s : State) :
    intAsserted s = true ↔ s.inReset = false ∧ ∃ c : Cause, causePresent s c = true ∧ s.intEnable.getLsbD c.bit = true := by
  simp only [intAsserted, causeEnabled, Bool.and_eq_true, Bool.not_eq_true', List.any_eq_true, Cause.mem_all, true_and]

/-! ## INT_CAUSE (R164, R179) -/

/-- The field of a cause in INT_CAUSE. -/
def Cause.placed (s : State) (c : Cause) : Placed := ⟨c.bit, 1, (causePresent s c).toNat⟩

theorem intCause_eq (s : State) : intCause s = packWord (Cause.all.map (Cause.placed s)) := rfl

theorem Cause.placed_mem (s : State) (c : Cause) : c.placed s ∈ Cause.all.map (Cause.placed s) :=
  List.mem_map_of_mem c.mem_all

theorem intCause_getLsbD_bit (s : State) (c : Cause) : (intCause s).getLsbD c.bit = causePresent s c := by
  have ascending : ((Cause.all.map (Cause.placed s)).map Placed.position).Pairwise (· < ·) := by
    rw [List.map_map]
    exact (by decide : (Cause.all.map Cause.bit).Pairwise (· < ·))
  have width : ∀ p ∈ Cause.all.map (Cause.placed s), p.width = 1 := List.forall_mem_map.mpr fun _ _ => rfl
  have held : (packNat (Cause.all.map (Cause.placed s))).testBit c.bit = (causePresent s c).toNat.testBit 0 :=
    (packNat_testBit ascending width).1 _ (c.placed_mem s)
  have bit (b : Bool) : b.toNat.testBit 0 = b := by cases b <;> rfl
  rw [intCause_eq, packWord_getLsbD _ (c.bit_lt.trans (by decide)), held, bit]

theorem intCause_getLsbD_of_ge (s : State) {n : Nat} (above : 6 ≤ n) : (intCause s).getLsbD n = false := by
  have small : (intCause s).toNat < 2 ^ 6 := by
    rw [intCause, packWord_toNat]
    simp only [Cause.all, Cause.bit, List.map_cons, List.map_nil, packNat]
    omega
  exact Nat.testBit_lt_two_pow (small.trans_le (Nat.pow_le_pow_right (by decide) above))

/-- INT_CAUSE shows the causes in the order of their bits and 0 above them. -/
theorem intCause_getLsbD (s : State) (n : Nat) :
    (intCause s).getLsbD n = ((Cause.all.map (causePresent s))[n]?).getD false := by
  cases shown : (Cause.all.map (causePresent s))[n]? with
  | none => exact intCause_getLsbD_of_ge s (List.getElem?_eq_none_iff.mp shown)
  | some b =>
    obtain ⟨c, rfl, present⟩ := present_getElem?_eq_some.mp shown
    exact (intCause_getLsbD_bit s c).trans present

/-- Settles O46: the listed causes are the model's, in the order of their bits. -/
theorem interruptLineFollowsTheCauses : Obligations.InterruptLineFollowsTheCauses := by
  intro s causes
  have listed : Cause.all.map (causePresent s) = causes := by
    simp only [Cause.all, List.map_cons, List.map_nil, causePresent_response, causePresent_fault]
    rfl
  rw [← listed]
  refine ⟨(intAsserted_iff s).trans (and_congr_right fun _ => ⟨?_, ?_⟩), fun running n _ => ?_⟩
  · rintro ⟨c, present, enabled⟩
    exact ⟨c.bit, c.bit_lt, present_getElem?_eq_some.mpr ⟨c, rfl, present⟩, enabled⟩
  · rintro ⟨n, -, shown, enabled⟩
    obtain ⟨c, rfl, present⟩ := present_getElem?_eq_some.mp shown
    exact ⟨c, present, enabled⟩
  · rw [readRegister_of_running running]
    exact intCause_getLsbD s n

end Sys2Proof.Machine
end

section
/-! The service port: frames (R168, R169, R171, R176) and the snapshots of STATUS_READ, ERROR_READ and AGENT_READ (R172,
R183). -/

namespace Sys2Proof.Machine

/-! ## A full byte, by the frame state (R168) -/

theorem execFullByteReceived_of_running {s : State} (b : Byte) (running : s.inReset = false) :
    exec (.fullByteReceived b) s = .next (receiveByte b s.quiet) := happening_of_running running

theorem receiveByte_idle {s : State} (b : Byte) (frame : s.service.frame = .idle) : receiveByte b s = s := by
  unfold receiveByte; rw [frame]

theorem receiveByte_command {s : State} (b : Byte) (frame : s.service.frame = .command) :
    receiveByte b s = commandByte b s := by
  unfold receiveByte; rw [frame]

theorem receiveByte_answer {s : State} (b : Byte) (frame : s.service.frame = .answer) : receiveByte b s = answerByte s := by
  unfold receiveByte; rw [frame]

theorem receiveByte_ignoring {s : State} (b : Byte) (frame : s.service.frame = .ignoring) :
    receiveByte b s = s.sendMiso 0 := by
  unfold receiveByte; rw [frame]

/-! ## The answer sent byte by byte (R171) -/

theorem answerByte_of_next {s : State} {x : Byte} (next : s.service.answer[s.service.sent]? = some x) :
    answerByte s = (s.setService { s.service with sent := s.service.sent + 1 }).sendMiso x := by
  unfold answerByte; rw [next]

theorem answerByte_at_end {s : State} (sent : s.service.answer.length ≤ s.service.sent) : answerByte s = s.sendMiso 0 := by
  unfold answerByte; rw [List.getElem?_eq_none sent]

/-! ## The opcode byte of a frame (R169) -/

theorem commandByte_statusRead {s : State} (arrived : s.service.received = []) :
    commandByte 0x01 s = judgeStatusRead s := by
  unfold commandByte; rw [arrived]; rfl

theorem commandByte_errorRead {s : State} (arrived : s.service.received = []) :
    commandByte 0x02 s = judgeErrorRead s := by
  unfold commandByte; rw [arrived]; rfl

/-- The opcodes of the four transactions that take arguments are kept. -/
theorem commandByte_keeps_opcode {s : State} {b : Byte} (arrived : s.service.received = []) (low : 3 ≤ b.toNat)
    (high : b.toNat ≤ 6) : commandByte b s = keepByte b s := by
  unfold commandByte
  rw [arrived]
  obtain code | code | code | code : b.toNat = 3 ∨ b.toNat = 4 ∨ b.toNat = 5 ∨ b.toNat = 6 := by omega
  all_goals simp only [code]

theorem commandByte_badFrame {s : State} {b : Byte} (arrived : s.service.received = [])
    (unnamed : b.toNat = 0 ∨ 7 ≤ b.toNat) : commandByte b s = judgeBadFrame b s := by
  unfold commandByte
  rw [arrived]
  dsimp only
  split
  case h_7 => rfl
  all_goals omega

/-! ## The argument bytes of a frame (R169) -/

theorem commandByte_agentRead {s : State} (b : Byte) (arrived : s.service.received = [0x03]) :
    commandByte b s = judgeAgentRead b s := by
  unfold commandByte; rw [arrived]; rfl

theorem commandByte_hold {s : State} (b : Byte) (arrived : s.service.received = [0x05]) :
    commandByte b s = judgeHold 0x05 true b s := by
  unfold commandByte; rw [arrived]; rfl

theorem commandByte_unhold {s : State} (b : Byte) (arrived : s.service.received = [0x06]) :
    commandByte b s = judgeHold 0x06 false b s := by
  unfold commandByte; rw [arrived]; rfl

theorem commandByte_keeps_index {s : State} (b : Byte) (arrived : s.service.received = [0x04]) :
    commandByte b s = keepByte b s := by
  unfold commandByte; rw [arrived]; rfl

theorem commandByte_grantRead {s : State} {hi : Byte} (b : Byte) (arrived : s.service.received = [0x04, hi]) :
    commandByte b s = judgeGrantRead hi b s := by
  unfold commandByte; rw [arrived]

/-! ## A transaction's own row (R169, R170) -/

theorem execStatusRead_eq {s : State} (running : s.inReset = false) (frame : s.service.frame = .command)
    (arrived : s.service.received = []) : exec .statusRead s = .next (judgeStatusRead s.quiet) :=
  judgedAfter_happens running frame arrived

theorem execErrorRead_eq {s : State} (running : s.inReset = false) (frame : s.service.frame = .command)
    (arrived : s.service.received = []) : exec .errorRead s = .next (judgeErrorRead s.quiet) :=
  judgedAfter_happens running frame arrived

theorem execAgentRead_eq {s : State} (b : Byte) (running : s.inReset = false) (frame : s.service.frame = .command)
    (arrived : s.service.received = [0x03]) : exec (.agentRead b) s = .next (judgeAgentRead b s.quiet) :=
  judgedAfter_happens running frame arrived

theorem execBadFrame_eq {s : State} {b : Byte} (running : s.inReset = false) (frame : s.service.frame = .command)
    (arrived : s.service.received = []) (unnamed : b.toNat = 0 ∨ 7 ≤ b.toNat) :
    exec (.badFrame b) s = .next (judgeBadFrame b s.quiet) := by
  simp only [exec, execBadFrame, (namesNoTransaction_iff b).mpr unnamed, if_true]
  exact judgedAfter_happens running frame arrived

/-! ## CS# (R168, R176) -/

theorem execCsAsserted_opens {s : State} (running : s.inReset = false) (frame : s.service.frame = .idle) :
    exec .csAsserted s = .next { s.quiet with csAsserted := true, service := ⟨.command, [], [], 0⟩ } :=
  congrArg _ (if_pos ⟨running, frame⟩)

theorem execCsAsserted_ignored {s : State} (h : s.inReset = true ∨ s.service.frame ≠ .idle) :
    exec .csAsserted s = .next { s.quiet with csAsserted := true } := by
  refine congrArg _ (if_neg fun ⟨running, frame⟩ => ?_)
  rcases h with inReset | busy
  · exact absurd (running.symm.trans inReset) Bool.false_ne_true
  · exact busy frame

/-- Settles O44: by the frame state, and in COMMAND by the bytes that came before. -/
theorem framesOpenReceiveAndClose : Obligations.FramesOpenReceiveAndClose := by
  intro s
  refine ⟨rfl, execCsAsserted_ignored, fun running => ⟨execCsAsserted_opens running, fun b => ?_⟩⟩
  rw [execFullByteReceived_of_running b running]
  refine ⟨fun idle => congrArg _ (receiveByte_idle b idle), fun ignoring => congrArg _ (receiveByte_ignoring b ignoring),
    fun answer x next => ?next, fun answer sent => ?finished, fun frame arrived => ?opcode, fun frame => ?argument⟩
  case next => exact congrArg _ ((receiveByte_answer (s := s.quiet) b answer).trans (answerByte_of_next next))
  case finished => exact congrArg _ ((receiveByte_answer (s := s.quiet) b answer).trans (answerByte_at_end sent))
  case opcode =>
    rw [receiveByte_command (s := s.quiet) b frame]
    refine ⟨?_, ?_, fun low high => ?_, fun unnamed => ?_⟩
    · rintro rfl
      rw [execStatusRead_eq running frame arrived, commandByte_statusRead (s := s.quiet) arrived]
    · rintro rfl
      rw [execErrorRead_eq running frame arrived, commandByte_errorRead (s := s.quiet) arrived]
    · rw [commandByte_keeps_opcode (s := s.quiet) arrived low high, keepByte, State.quiet_service, arrived]; rfl
    · rw [execBadFrame_eq running frame arrived unnamed, commandByte_badFrame (s := s.quiet) arrived unnamed]
  case argument =>
    rw [receiveByte_command (s := s.quiet) b frame]
    refine ⟨fun arrived => ?_, fun arrived => ?_, fun arrived => ?_, fun arrived => ?_, fun hi arrived => ?_⟩
    · rw [execAgentRead_eq b running frame arrived, commandByte_agentRead (s := s.quiet) b arrived]
    · rw [commandByte_hold (s := s.quiet) b arrived]; exact (judgedAfter_happens running frame arrived).symm
    · rw [commandByte_unhold (s := s.quiet) b arrived]; exact (judgedAfter_happens running frame arrived).symm
    · rw [commandByte_keeps_index (s := s.quiet) b arrived, keepByte, State.quiet_service, arrived]; rfl
    · rw [execGrantRead_eq running frame arrived, commandByte_grantRead (s := s.quiet) b arrived]

/-! ## The bytes of the snapshots (R183) -/

theorem beBytes_one (n : Nat) : beBytes 1 n = [BitVec.ofNat 8 n] := by
  simp only [beBytes, Nat.pow_zero, Nat.div_one]

theorem beBytes_two (n : Nat) : beBytes 2 n = [BitVec.ofNat 8 (n / 256), BitVec.ofNat 8 n] := by
  simp only [beBytes, Nat.pow_zero, Nat.pow_one, Nat.div_one]

theorem beBytes_four (n : Nat) : beBytes 4 n = [BitVec.ofNat 8 (n / 2 ^ 24), BitVec.ofNat 8 (n / 2 ^ 16),
    BitVec.ofNat 8 (n / 2 ^ 8), BitVec.ofNat 8 n] := by
  simp only [beBytes, Nat.reducePow, Nat.div_one]

/-- Byte 0 of STATUS_READ: run state, processor state and freeze level (R183). -/
theorem statusByte0 (s : State) :
    packByte [⟨7, 1, runCode s.runState⟩, ⟨4, 3, procCode s.processor.state⟩, ⟨0, 2, s.freezeLevel.val⟩] =
      BitVec.ofNat 8 (128 * runCode s.runState + 16 * procCode s.processor.state + s.freezeLevel.val) := by
  have run := runCode_lt s.runState
  have proc := procCode_lt s.processor.state
  have level := s.freezeLevel.isLt
  simp only [packByte, packNat]
  congr 1
  omega

theorem statusBytes_eq (s : State) :
    let byte (n : Nat) : Byte := BitVec.ofNat 8 n
    statusBytes s = [byte (128 * runCode s.runState + 16 * procCode s.processor.state + s.freezeLevel.val),
      byte s.commandQueue.length, byte s.responseQueue.length, byte s.reserved,
      byte (s.freeList.length / 256), byte s.freeList.length, byte s.openCount,
      byte (s.level .issued), byte (s.level .abandoned), byte (s.level .empty)] := by
  intro byte
  rw [statusBytes, statusByte0]
  simp only [beBytes_one, beBytes_two, List.cons_append, List.nil_append]
  rfl

/-- The flags of the error record and its first error fit their places (R183). -/
theorem errorByte0 (e : ErrorRecord) {held code : Nat} (small : held < 2) (narrow : code < 4) :
    packByte [⟨0, 1, e.integrity.toNat⟩, ⟨1, 1, e.stray.toNat⟩, ⟨2, 1, e.abandon.toNat⟩, ⟨3, 1, e.further.toNat⟩,
        ⟨4, 1, held⟩, ⟨5, 2, code⟩] =
      BitVec.ofNat 8 (e.integrity.toNat + 2 * e.stray.toNat + 4 * e.abandon.toNat + 8 * e.further.toNat
        + 16 * held + 32 * code) := by
  have integrity := Bool.toNat_lt e.integrity
  have stray := Bool.toNat_lt e.stray
  have abandon := Bool.toNat_lt e.abandon
  have further := Bool.toNat_lt e.further
  simp only [packByte, packNat]
  congr 1
  omega

theorem errorBytes_of_empty {e : ErrorRecord} (empty : e.first = none) :
    errorBytes e = [BitVec.ofNat 8 (e.integrity.toNat + 2 * e.stray.toNat + 4 * e.abandon.toNat + 8 * e.further.toNat),
      0, 0] := by
  rw [errorBytes, empty, beBytes_two]
  exact congrArg (· :: _) (errorByte0 e Nat.two_pos (by decide))

theorem errorBytes_of_first {e : ErrorRecord} {f : FirstError} (first : e.first = some f) :
    errorBytes e = [BitVec.ofNat 8 (e.integrity.toNat + 2 * e.stray.toNat + 4 * e.abandon.toNat + 8 * e.further.toNat
      + 16 + 32 * errorCode f.errorClass), BitVec.ofNat 8 (f.detail / 256), BitVec.ofNat 8 f.detail] := by
  rw [errorBytes, first, beBytes_two]
  exact congrArg (· :: _) (errorByte0 e Nat.one_lt_two (errorCode_lt f.errorClass))

theorem slotMore_eq (slot : Option HeldFault) : slotMore slot = (slot.map HeldFault.more).getD false := by
  cases slot <;> rfl

/-- Byte 0 of AGENT_READ: the agent's state and flags, and those of its fault slot (R183). -/
theorem agentByte0 (r : Agent) (slot : Option HeldFault) :
    packByte [⟨0, 2, agentCode r.state⟩, ⟨2, 1, r.hold.toNat⟩, ⟨3, 1, r.autoQuarantine.toNat⟩, ⟨4, 1, slot.isSome.toNat⟩,
        ⟨5, 1, (slotMore slot).toNat⟩] =
      BitVec.ofNat 8 (agentCode r.state + 4 * r.hold.toNat + 8 * r.autoQuarantine.toNat + 16 * slot.isSome.toNat
        + 32 * ((slot.map HeldFault.more).getD false).toNat) := by
  have state := agentCode_lt r.state
  have hold := Bool.toNat_lt r.hold
  have auto := Bool.toNat_lt r.autoQuarantine
  have held := Bool.toNat_lt slot.isSome
  have more := Bool.toNat_lt (slotMore slot)
  rw [← slotMore_eq]
  simp only [packByte, packNat]
  congr 1
  omega

/-- Byte 16 of AGENT_READ: access kind and requester tag (R183). -/
theorem faultByte9 (f : HeldFault) : packByte [⟨0, 2, accessCode f.accessKind⟩, ⟨4, 4, f.tag.toNat⟩] =
    BitVec.ofNat 8 (accessCode f.accessKind + 16 * f.tag.toNat) := by
  have kind := accessCode_lt f.accessKind
  have tag := f.tag.isLt
  simp only [packByte, packNat]
  congr 1
  omega

theorem faultBytes_some (f : HeldFault) :
    let byte (n : Nat) : Byte := BitVec.ofNat 8 n
    faultBytes (some f) = [byte (faultCode f.kind), byte (f.handle.toNat / 256), byte f.handle.toNat,
      byte (f.offset.toNat / 2 ^ 24), byte (f.offset.toNat / 2 ^ 16), byte (f.offset.toNat / 2 ^ 8),
      byte f.offset.toNat, byte (f.length / 256), byte f.length, byte (accessCode f.accessKind + 16 * f.tag.toNat)] := by
  intro byte
  simp only [faultBytes, faultByte9, beBytes_one, beBytes_two, beBytes_four, List.cons_append, List.nil_append]
  rfl

theorem agentBytes_eq (s : State) (a : AgentIx) :
    let byte (n : Nat) : Byte := BitVec.ofNat 8 n
    agentBytes s a = [byte (agentCode s.agents[a].state + 4 * s.agents[a].hold.toNat
          + 8 * s.agents[a].autoQuarantine.toNat + 16 * s.faultSlots[a].isSome.toNat
          + 32 * ((s.faultSlots[a].map HeldFault.more).getD false).toNat),
      byte (s.agents[a].quota / 256), byte s.agents[a].quota, byte s.agents[a].limit,
      byte (s.grantCount a / 256), byte (s.grantCount a), byte (s.outstanding a)] ++ faultBytes s.faultSlots[a] := by
  intro byte
  rw [agentBytes, agentByte0]
  simp only [beBytes_one, beBytes_two, List.cons_append, List.nil_append]
  rfl

/-! ## The snapshots judged (R172) -/

theorem judgeAgentRead_of_agent {b : Byte} {a : AgentIx} (h : b.toNat = a.val) (s : State) :
    judgeAgentRead b s = answerWith [0x03, b] resultDone (agentBytes s a) s := by
  unfold judgeAgentRead
  rw [agentOfByte_some h]

theorem judgeAgentRead_of_no_agent {b : Byte} (h : 16 ≤ b.toNat) (s : State) :
    judgeAgentRead b s = answerWith [0x03, b] resultBadFrame [] s := by
  unfold judgeAgentRead
  rw [agentOfByte_none h]

@[simp] theorem statusBytes_quiet (s : State) : statusBytes s.quiet = statusBytes s := rfl

@[simp] theorem agentBytes_quiet (s : State) (a : AgentIx) : agentBytes s.quiet a = agentBytes s a := rfl

/-- Settles O41: by the transaction; ERROR_READ by its first error, AGENT_READ by its agent byte and the fault slot. -/
theorem snapshotsOfStatusErrorsAndAgents : Obligations.SnapshotsOfStatusErrorsAndAgents := by
  intro s running frame byte answer
  refine ⟨fun arrived => ⟨?status, ?errors⟩, fun arrived b => ⟨fun above => ?noAgent, fun a named => ?agent⟩⟩
  case status =>
    rw [execStatusRead_eq running frame arrived, judgeStatusRead, statusBytes_quiet, statusBytes_eq]
    rfl
  case errors =>
    rw [execErrorRead_eq running frame arrived, judgeErrorRead, State.quiet_errors]
    cases first : s.errors.first with
    | none => rw [errorBytes_of_empty first]; rfl
    | some e => rw [errorBytes_of_first first]; rfl
  case noAgent => rw [execAgentRead_eq b running frame arrived, judgeAgentRead_of_no_agent above]; rfl
  case agent =>
    rw [execAgentRead_eq b running frame arrived, judgeAgentRead_of_agent named, agentBytes_quiet, agentBytes_eq]
    cases s.faultSlots[a] with
    | none => rfl
    | some f => rw [faultBytes_some]; rfl

end Sys2Proof.Machine
end

section
/-! The host's register writes, position by position (R177, R178), and handles (R180). -/

namespace Sys2Proof.Machine

/-! ## REGISTER_WRITE (R177, R178) -/

/-- The byte offsets of the registers at which a host write acts (R177). -/
def writableOffsets : List Nat := [0x08, 0x10, 0x1C, 0x20, 0x24, 0x28, 0x2C, 0x30, 0x34, 0x38, 0x58, 0x64, 0x68]

/-- A write to a read-only register, or to an offset with no register, changes nothing (R177). -/
theorem hostWrite_of_not_writable {reg : BitVec 5} (h : reg.toNat * 4 ∉ writableOffsets) (v : Word) (s : State) :
    hostWrite reg v s = s := by
  unfold hostWrite
  split
  case h_14 => rfl
  all_goals next offset => exact absurd (by rw [offset]; decide) h

theorem registerWrite_of_running {s : State} (running : s.inReset = false) (reg : BitVec 5) (v : Word) :
    exec (.registerWrite reg v) s = .next (hostWrite reg v s.quiet) := happening_of_running running

/-- The row of a register or action of its own is the write at that register's position (R177; log entry 16). -/
theorem registerWrite_eq_happening {f : State → State} {reg : BitVec 5} {v : Word} (h : hostWrite reg v = f) (s : State) :
    exec (.registerWrite reg v) s = happening f s := by
  subst h
  rfl

/-- Settles O25: by the word position; those that no write acts at are the offsets outside `writableOffsets`. -/
theorem registerWritesAct : Obligations.RegisterWritesAct := by
  intro s v running
  have readOnly : ∀ reg ∈ ([0x00, 0x01, 0x03, 0x05, 0x06, 0x0F, 0x10, 0x11, 0x12, 0x13, 0x14, 0x15, 0x17, 0x18, 0x1B, 0x1C,
      0x1D, 0x1E, 0x1F] : List (BitVec 5)), reg.toNat * 4 ∉ writableOffsets := by decide
  refine ⟨?intEnable, ?errorClear, ?c0, ?c1, ?c2, ?c3, ?c4, ?c5, ?push, ?pop, ?faultSelect, ?faultAck,
    fun reg unwritable => ?unwritable⟩
  case intEnable => exact registerWrite_eq_happening (f := writeEnables v) rfl s
  case errorClear => exact registerWrite_eq_happening (f := clearErrors) rfl s
  case push => exact registerWrite_eq_happening (f := pushCommand) rfl s
  case pop => exact registerWrite_eq_happening (f := popResponse) rfl s
  case faultSelect => exact registerWrite_eq_happening (f := selectFault v) rfl s
  case faultAck => exact registerWrite_eq_happening (f := acknowledgeFault v) rfl s
  case c0 | c1 | c2 | c3 | c4 | c5 => exact registerWrite_of_running running _ v
  case unwritable => rw [registerWrite_of_running running, hostWrite_of_not_writable (readOnly reg unwritable)]

/-! ## Handles (R180) -/

/-- Generation × 1024 + slot index fits the 16 bits of a handle. -/
theorem mkHandle_toNat (i : SlotIx) (g : BitVec 6) : (mkHandle i g).toNat = g.toNat * 1024 + i.val := by
  have slot := i.isLt
  have generation := g.isLt
  rw [mkHandle, BitVec.toNat_ofNat, Nat.mod_eq_of_lt (by omega)]

theorem handleSlot_val (h : Handle) : (handleSlot h).val = h.toNat % 1024 := rfl

theorem handleGeneration_toNat (h : Handle) : (handleGeneration h).toNat = h.toNat / 1024 := by
  have bound := h.isLt
  rw [handleGeneration, BitVec.extractLsb'_toNat, Nat.shiftRight_eq_div_pow]
  omega

@[simp] theorem handleSlot_mkHandle (i : SlotIx) (g : BitVec 6) : handleSlot (mkHandle i g) = i := by
  have slot := i.isLt
  apply Fin.ext
  rw [handleSlot_val, mkHandle_toNat]
  omega

@[simp] theorem handleGeneration_mkHandle (i : SlotIx) (g : BitVec 6) : handleGeneration (mkHandle i g) = g := by
  have slot := i.isLt
  apply BitVec.eq_of_toNat_eq
  rw [handleGeneration_toNat, mkHandle_toNat]
  omega

@[simp] theorem mkHandle_slot_generation (h : Handle) : mkHandle (handleSlot h) (handleGeneration h) = h := by
  apply BitVec.eq_of_toNat_eq
  rw [mkHandle_toNat, handleSlot_val, handleGeneration_toNat]
  omega

/-- Settles O48: by quotient and remainder at 1024. -/
theorem handlesCarrySlotAndGeneration : Obligations.HandlesCarrySlotAndGeneration :=
  ⟨fun i g => ⟨mkHandle_toNat i g, handleSlot_mkHandle i g, handleGeneration_mkHandle i g⟩,
    fun h => ⟨handleSlot_val h, handleGeneration_toNat h, mkHandle_slot_generation h⟩, by decide, rfl, by decide⟩

end Sys2Proof.Machine
end

section
/-! The queue of waiting commands is the model's own (log entry 18): no operation of the block touches it, and a step runs
the command at its front (log entry 1). -/

namespace Sys2Proof.Machine

/-- Settles O1: by the two shapes of the queue. -/
theorem stepRunsTheFrontCommand : Obligations.StepRunsTheFrontCommand := by
  refine ⟨fun c s rest waits => ?_, fun s idle => ?_⟩
  · rw [step, waits]
  · rw [step, idle]

/-! ## The shared operations -/

@[simp] theorem takeTest_pending (s : State) : (takeTest s).pending = s.pending := by rw [takeTest_frame]
@[simp] theorem stopProcessor_pending (s : State) : (stopProcessor s).pending = s.pending := by rw [stopProcessor_frame]
@[simp] theorem integrityRead_pending (i : SlotIx) (s : State) : (integrityRead i s).pending = s.pending := by
  rw [integrityRead_frame]
@[simp] theorem freeAll_pending (s : State) : (freeAll s).pending = s.pending := by rw [freeAll_frame]
@[simp] theorem offerNotice_pending (i : SlotIx) (n : Notice) (s : State) : (offerNotice i n s).pending = s.pending := by
  rw [offerNotice_frame]
@[simp] theorem timeoutRetire_pending (s : State) (k : RetireIx) : (timeoutRetire s k).pending = s.pending := by
  rw [timeoutRetire_frame]
@[simp] theorem drainMembers_pending (members : List SlotIx) (s : State) : (drainMembers members s).pending = s.pending := by
  rw [drainMembers_frame]
@[simp] theorem faultAccess_pending (a : AgentIx) (q : Request) (f : FaultKind) (s : State) :
    (faultAccess a q f s).pending = s.pending := by rw [faultAccess_frame]
@[simp] theorem processorAfterRetire_pending (kind : RetireKind) (s : State) :
    (processorAfterRetire kind s).pending = s.pending := by rw [processorAfterRetire_frame]
@[simp] theorem allocate_pending (r : CommandRecord) (i : SlotIx) (rest : List SlotIx) (base : BitVec 32) (p : Option SlotIx)
    (d : Nat) (s : State) : (allocate r i rest base p d s).pending = s.pending := by rw [allocate_frame]
@[simp] theorem answerWith_pending (b : List Byte) (r : Byte) (d : List Byte) (s : State) :
    (answerWith b r d s).pending = s.pending := rfl

@[simp] theorem lapseGrant_pending (s : State) (i : SlotIx) : (lapseGrant s i).pending = s.pending := by
  rw [lapseGrant_eq, offerNotice_pending, integrityRead_pending, lapseDrained_frame]

theorem foldl_pending {α : Type} {f : State → α → State} (h : ∀ s x, (f s x).pending = s.pending) (l : List α) (s : State) :
    (l.foldl f s).pending = s.pending := by
  induction l generalizing s with
  | nil => rfl
  | cons x rest ih => exact (ih _).trans (h s x)

@[simp] theorem integrityScan_pending (s : State) : (integrityScan s).pending = s.pending :=
  foldl_pending (fun s i => integrityRead_pending i s) _ s

@[simp] theorem timeoutRetires_pending (ks : List RetireIx) (s : State) : (timeoutRetires ks s).pending = s.pending :=
  foldl_pending timeoutRetire_pending ks s

@[simp] theorem completeRetire_pending (k : RetireIx) (op : RetireOp) (s : State) :
    (completeRetire k op s).pending = s.pending := by
  unfold completeRetire
  split <;> simp

@[simp] theorem completeIfEmpty_pending (s : State) (k : RetireIx) : (completeIfEmpty s k).pending = s.pending := by
  unfold completeIfEmpty
  split
  · rfl
  · split
    · exact completeRetire_pending _ _ s
    · rfl

@[simp] theorem completeRetires_pending (s : State) : (completeRetires s).pending = s.pending :=
  foldl_pending completeIfEmpty_pending _ s

@[simp] theorem completeTakes_pending (k : RetireIx) (s : State) : (completeTakes k s).pending = s.pending := by
  rw [completeTakes_eq_foldl]
  exact foldl_pending completeIfEmpty_pending _ s

@[simp] theorem completeBarrier_pending (s : State) : (completeBarrier s).pending = s.pending := by
  unfold completeBarrier
  split
  · rfl
  · split
    · rfl
    · split <;> simp

@[simp] theorem settle_pending (s : State) : (settle s).pending = s.pending := by simp [settle]

@[simp] theorem postOwed_pending (n : Nat) (s : State) : (postOwed n s).pending = s.pending := by
  induction n generalizing s with
  | zero => rfl
  | succ n ih =>
    unfold postOwed
    split
    · rfl
    · split
      · rfl
      · split
        · rfl
        · exact ih _

/-! ## Takes of the command processor -/

@[simp] theorem endTake_pending (r : CommandRecord) (v : Verdict) (s : State) : (endTake r v s).pending = s.pending := by
  cases v with
  | stays => exact stopProcessor_pending s
  | completes st h res => by_cases halts : st.halts = true <;> simp [endTake, halts]

theorem takeCommand_pending {wanted : Option CommandKind} {body : CommandRecord → State → Verdict × State} {s : State}
    (h : ∀ r u, (body r u).2.pending = u.pending) : (takeCommand wanted body s).pending = s.pending := by
  unfold takeCommand
  split
  · rfl
  · split_ifs
    · exact endTake_pending _ _ _
    · exact (endTake_pending _ _ _).trans (h _ _)
    · rfl

@[simp] theorem allocateChecked_pending (r : CommandRecord) (base : BitVec 32) (parent : Option SlotIx) (depth : Nat)
    (s : State) :
    (allocateChecked r base parent depth s).2.pending = s.pending := by
  unfold allocateChecked
  split
  · rfl
  · split
    · rfl
    · exact allocate_pending r _ _ _ _ _ s

theorem createBody_pending (r : CommandRecord) (s : State) : (createBody r s).2.pending = s.pending := by
  unfold createBody
  split_ifs
  case neg => exact allocateChecked_pending r _ _ _ s
  all_goals rfl

theorem deriveFrom_pending (p : SlotIx) (r : CommandRecord) (s : State) : (deriveFrom p r s).2.pending = s.pending := by
  unfold deriveFrom
  dsimp only
  split_ifs
  case neg => exact allocateChecked_pending r _ _ _ s
  all_goals rfl

theorem deriveBody_pending (r : CommandRecord) (s : State) : (deriveBody r s).2.pending = s.pending := by
  unfold deriveBody
  split_ifs
  case neg => rw [deriveFrom_pending, integrityRead_pending]
  all_goals rfl

theorem modifyTarget_pending (i : SlotIx) (r : CommandRecord) (s : State) : (modifyTarget i r s).2.pending = s.pending := by
  unfold modifyTarget
  dsimp only
  split_ifs <;> rfl

theorem modifyBody_pending (r : CommandRecord) (s : State) : (modifyBody r s).2.pending = s.pending := by
  unfold modifyBody
  split_ifs
  case neg => rw [modifyTarget_pending, integrityRead_pending]
  all_goals rfl

theorem queryBody_pending (r : CommandRecord) (s : State) : (queryBody r s).2.pending = s.pending := by
  unfold queryBody
  split
  · exact integrityRead_pending _ s
  · rfl

@[simp] theorem openOperation_pending (kind : RetireKind) (r : CommandRecord) (target : Option Handle) (members : List SlotIx)
    (s : State) : (openOperation kind r target members s).pending = s.pending := by
  unfold openOperation
  split
  · rfl
  · unfold afterOpening
    split <;> simp

theorem revokeBody_pending (r : CommandRecord) (s : State) : (revokeBody r s).2.pending = s.pending := by
  unfold revokeBody
  split
  · simp
  · rfl

theorem revokeAgentBody_pending (r : CommandRecord) (s : State) : (revokeAgentBody r s).2.pending = s.pending := by
  simp [revokeAgentBody]

theorem purgeBody_pending (r : CommandRecord) (s : State) : (purgeBody r s).2.pending = s.pending :=
  openOperation_pending _ _ _ _ s

theorem barrierBody_pending (r : CommandRecord) (s : State) : (barrierBody r s).2.pending = s.pending := by
  unfold barrierBody
  split <;> rfl

theorem agentSetBody_pending (r : CommandRecord) (s : State) : (agentSetBody r s).2.pending = s.pending := by
  unfold agentSetBody
  split_ifs <;> rfl

theorem moveAgent_pending (source target : AgentState) (r : CommandRecord) (s : State) :
    (moveAgent source target r s).2.pending = s.pending := by
  unfold moveAgent
  split <;> rfl

@[simp] theorem enableRange_pending (r : CommandRecord) (s : State) : (enableRange r s).2.pending = s.pending := by
  unfold enableRange
  split <;> rfl

theorem excludeSetBody_pending (r : CommandRecord) (s : State) : (excludeSetBody r s).2.pending = s.pending := by
  unfold excludeSetBody
  split_ifs
  case neg => rw [enableRange_pending, integrityScan_pending]
  all_goals rfl

theorem freezeBody_pending (r : CommandRecord) (s : State) : (freezeBody r s).2.pending = s.pending := by
  unfold freezeBody
  split_ifs <;> rfl

theorem configureBody_pending (r : CommandRecord) (s : State) : (configureBody r s).2.pending = s.pending := by
  unfold configureBody
  split_ifs <;> rfl

/-! ## Accesses and memory completions -/

theorem presentRequest_pending (a : AgentIx) (q : Request) (s : State) : (presentRequest a q s).pending = s.pending := by
  unfold presentRequest
  split <;> rfl

@[simp] theorem issueAccess_pending (a : AgentIx) (q : Request) (s : State) : (issueAccess a q s).pending = s.pending := by
  unfold issueAccess
  split <;> rfl

/-- A take empties its lane and moves the pointer, and then issues or faults. -/
theorem takeLane_pending (a : AgentIx) (q : Request) (s : State) : (takeLane a q s).pending = s.pending := by
  cases outcome : firstFailing (elevenChecks s a q) with
  | none =>
    rw [takeLane_of_passes outcome, stopProcessor_pending, issueAccess_pending]
    rfl
  | some f =>
    rw [takeLane_of_fails outcome, stopProcessor_pending, faultAccess_pending, accessAnswer_frame]
    rfl

theorem accessTake_pending (s : State) : (accessTake s).pending = s.pending := by
  unfold accessTake
  split
  · rfl
  · split
    · rfl
    · exact takeLane_pending _ _ s

@[simp] theorem answered_pending (e : Entry) (status : MemStatus) (data : List Byte) (s : State) :
    (answered e status data s).pending = s.pending := by
  cases status with
  | ok =>
    unfold answered answerOk
    cases e.kind <;> rfl
  | error =>
    unfold answered
    rw [answerError_frame]

@[simp] theorem settleIfDraining_pending (i : SlotIx) (s : State) : (settleIfDraining i s).pending = s.pending := by
  unfold settleIfDraining
  split
  · exact settle_pending s
  · rfl

theorem memoryCompletion_pending (k : EntryIx) (status : MemStatus) (data : List Byte) (s : State) :
    (memoryCompletion k status data s).pending = s.pending := by
  unfold memoryCompletion
  split
  · simp [completeIssued_eq]
  · rfl
  · simp

/-! ## Draining and leases -/

theorem freeing_pending (i : SlotIx) (s : State) : (freeing i s).pending = s.pending := by
  unfold freeing
  split
  · exact settle_pending s
  · rfl

theorem retireCompletion_pending (k : RetireIx) (s : State) : (retireCompletion k s).pending = s.pending := by
  unfold retireCompletion
  split
  · rfl
  · split
    · rw [completeBarrier_pending, completeRetire_pending]
    · rfl

theorem drainTimeout_pending (k : RetireIx) (s : State) : (drainTimeout k s).pending = s.pending := by
  unfold drainTimeout
  split
  · simp
  · rfl

theorem tickStages_pending (s : State) : (tickStages s).pending = s.pending :=
  (timeoutRetires_pending _ _).trans (foldl_pending lapseGrant_pending _ _)

theorem leaseTick_pending (s : State) : (leaseTick s).pending = s.pending := by simp [leaseTick, tickStages_pending]

theorem lapse_pending (i : SlotIx) (s : State) : (lapse i s).pending = s.pending := by
  unfold lapse
  split
  · simp
  · rfl

theorem owedNoticePosted_pending (s : State) : (owedNoticePosted s).pending = s.pending := by
  unfold owedNoticePosted
  split
  · rfl
  · simp

/-! ## Host writes -/

theorem softReset_pending (s : State) : (softReset s).pending = s.pending := rfl
theorem clearErrors_pending (s : State) : (clearErrors s).pending = s.pending := rfl
theorem writeEnables_pending (v : Word) (s : State) : (writeEnables v s).pending = s.pending := rfl

theorem pushCommand_pending (s : State) : (pushCommand s).pending = s.pending := by
  unfold pushCommand
  dsimp only
  split_ifs <;> simp

theorem popResponse_pending (s : State) : (popResponse s).pending = s.pending := by
  unfold popResponse
  split
  · rfl
  · dsimp only
    split <;> simp

theorem resumeAction_pending (s : State) : (resumeAction s).pending = s.pending := by
  unfold resumeAction
  split <;> simp

theorem discardAction_pending (s : State) : (discardAction s).pending = s.pending := by
  unfold discardAction
  split_ifs <;> simp

theorem discardRemoval_pending (s : State) : (discardRemoval s).pending = s.pending := by
  unfold discardRemoval
  split
  · rfl
  · dsimp only
    split_ifs <;> simp

theorem acknowledgeFault_pending (v : Word) (s : State) : (acknowledgeFault v s).pending = s.pending := by
  unfold acknowledgeFault
  split <;> rfl

theorem selectFault_pending (v : Word) (s : State) : (selectFault v s).pending = s.pending := by
  unfold selectFault
  split <;> rfl

theorem writeControl_pending (v : Word) (s : State) : (writeControl v s).pending = s.pending := by
  have cleared : (if v.getLsbD 3 then clearPushRefused s else s).pending = s.pending := by
    split <;> rfl
  unfold writeControl
  dsimp only
  split
  · exact softReset_pending s
  · split
    · exact (discardAction_pending _).trans cleared
    · split
      · exact (resumeAction_pending _).trans cleared
      · exact cleared

theorem hostWrite_pending (reg : BitVec 5) (v : Word) (s : State) : (hostWrite reg v s).pending = s.pending := by
  unfold hostWrite
  split
  case h_1 => exact writeControl_pending v s
  case h_10 => exact pushCommand_pending s
  case h_11 => exact popResponse_pending s
  case h_12 => exact selectFault_pending v s
  case h_13 => exact acknowledgeFault_pending v s
  all_goals rfl

/-! ## The service port -/

theorem judgeStatusRead_pending (s : State) : (judgeStatusRead s).pending = s.pending := rfl
theorem judgeErrorRead_pending (s : State) : (judgeErrorRead s).pending = s.pending := rfl
theorem judgeBadFrame_pending (opcode : Byte) (s : State) : (judgeBadFrame opcode s).pending = s.pending := rfl

theorem judgeAgentRead_pending (b : Byte) (s : State) : (judgeAgentRead b s).pending = s.pending := by
  unfold judgeAgentRead
  split <;> rfl

@[simp] theorem grantReadCheck_pending (i : SlotIx) (s : State) : (grantReadCheck i s).pending = s.pending := by
  unfold grantReadCheck
  split
  · rfl
  · exact integrityRead_pending i s

theorem judgeGrantRead_pending (hi lo : Byte) (s : State) : (judgeGrantRead hi lo s).pending = s.pending := by
  unfold judgeGrantRead
  split
  · rfl
  · split
    · rfl
    · simp

theorem judgeHold_pending (opcode : Byte) (value : Bool) (b : Byte) (s : State) :
    (judgeHold opcode value b s).pending = s.pending := by
  unfold judgeHold
  split <;> rfl

theorem judgedAfter_pending {received : List Byte} {judge : State → State} (h : ∀ u, (judge u).pending = u.pending)
    (s : State) :
    (judgedAfter received judge s).pending = s.pending := by
  unfold judgedAfter
  split
  · exact h s
  · rfl

theorem grantRead_pending (lo : Byte) (s : State) : (grantRead lo s).pending = s.pending := by
  unfold grantRead
  split
  · rfl
  · exact judgeGrantRead_pending _ lo s

theorem commandByte_pending (b : Byte) (s : State) : (commandByte b s).pending = s.pending := by
  unfold commandByte
  split
  · split <;> rfl
  · split
    · exact judgeAgentRead_pending b s
    · exact judgeHold_pending _ _ b s
    · exact judgeHold_pending _ _ b s
    · rfl
  · exact judgeGrantRead_pending _ b s

theorem receiveByte_pending (b : Byte) (s : State) : (receiveByte b s).pending = s.pending := by
  unfold receiveByte
  split
  · rfl
  · exact commandByte_pending b s
  · unfold answerByte
    split <;> rfl
  · rfl

/-! ## Every command -/

/-- A happening answers, in reset as out of it. -/
theorem happening_answers {f : State → State} (h : ∀ u, (f u).pending = u.pending) (s : State) :
    ∃ t, happening f s = .next t ∧ t.pending = s.pending := by
  refine ⟨_, rfl, ?_⟩
  split
  · rfl
  · exact h s.quiet

/-- Settles O2: by the command; all but the hard resets, the release and the movements of CS# are happenings. -/
theorem everyCommandAnswersNext : Obligations.EveryCommandAnswersNext := by
  intro c s
  cases c with
  | powerOnReset | hardwareReset | csDeasserted => exact ⟨_, rfl, rfl⟩
  | resetRelease | csAsserted => exact ⟨_, rfl, by split <;> rfl⟩
  | softReset => exact happening_answers softReset_pending s
  | requestPresented a q => exact happening_answers (presentRequest_pending a q) s
  | accessTake => exact happening_answers accessTake_pending s
  | memoryCompletion k status data => exact happening_answers (memoryCompletion_pending k status data) s
  | freeing i => exact happening_answers (freeing_pending i) s
  | retireCompletion k => exact happening_answers (retireCompletion_pending k) s
  | barrierCompletion => exact happening_answers completeBarrier_pending s
  | leaseTick => exact happening_answers leaseTick_pending s
  | lapse i => exact happening_answers (lapse_pending i) s
  | owedNoticePosted => exact happening_answers owedNoticePosted_pending s
  | drainTimeout k => exact happening_answers (drainTimeout_pending k) s
  | push v => exact happening_answers pushCommand_pending s
  | pop v => exact happening_answers popResponse_pending s
  | resume => exact happening_answers resumeAction_pending s
  | discard => exact happening_answers discardAction_pending s
  | pushRefusedClear => exact happening_answers clearPushRefused_pending s
  | discardRemoval => exact happening_answers discardRemoval_pending s
  | errorClear v => exact happening_answers clearErrors_pending s
  | faultAck v => exact happening_answers (acknowledgeFault_pending v) s
  | faultSelect v => exact happening_answers (selectFault_pending v) s
  | intEnable v => exact happening_answers (writeEnables_pending v) s
  | registerWrite reg v => exact happening_answers (hostWrite_pending reg v) s
  | create => exact happening_answers (fun _ => takeCommand_pending createBody_pending) s
  | derive => exact happening_answers (fun _ => takeCommand_pending deriveBody_pending) s
  | modify => exact happening_answers (fun _ => takeCommand_pending modifyBody_pending) s
  | query => exact happening_answers (fun _ => takeCommand_pending queryBody_pending) s
  | revoke => exact happening_answers (fun _ => takeCommand_pending revokeBody_pending) s
  | revokeAgent => exact happening_answers (fun _ => takeCommand_pending revokeAgentBody_pending) s
  | purge => exact happening_answers (fun _ => takeCommand_pending purgeBody_pending) s
  | barrier => exact happening_answers (fun _ => takeCommand_pending barrierBody_pending) s
  | agentSet => exact happening_answers (fun _ => takeCommand_pending agentSetBody_pending) s
  | quarantine | release => exact happening_answers (fun _ => takeCommand_pending (moveAgent_pending _ _)) s
  | excludeSet => exact happening_answers (fun _ => takeCommand_pending excludeSetBody_pending) s
  | freeze => exact happening_answers (fun _ => takeCommand_pending freezeBody_pending) s
  | configure => exact happening_answers (fun _ => takeCommand_pending configureBody_pending) s
  | unknownKindCode => exact happening_answers (fun _ => takeCommand_pending fun _ _ => rfl) s
  | statusRead => exact happening_answers (judgedAfter_pending judgeStatusRead_pending) s
  | errorRead => exact happening_answers (judgedAfter_pending judgeErrorRead_pending) s
  | agentRead b => exact happening_answers (judgedAfter_pending (judgeAgentRead_pending b)) s
  | grantRead b => exact happening_answers (grantRead_pending b) s
  | hold b | unhold b => exact happening_answers (judgedAfter_pending (judgeHold_pending _ _ b)) s
  | badFrame b =>
    refine happening_answers (fun u => ?_) s
    split
    · exact judgedAfter_pending (judgeBadFrame_pending b) u
    · rfl
  | fullByteReceived b => exact happening_answers (receiveByte_pending b) s

end Sys2Proof.Machine
end
